-- ==== Sys2Proof/Word.lean ====
section
/-! DEFINITION. The word types of the block (00_scope.md R9): every value is an unsigned bit vector, bit 0 the
least significant; arithmetic over the integers is done on `toNat`/`toInt` and narrowed where a rule says so. -/

namespace Sys2Proof

/-- `u8`, 0..255 (R9): duty values, frame bytes, the divider, the error counter. -/
abbrev Byte := BitVec 8

/-- The 12-bit event word: the tag in bits 11..8, the payload in bits 7..0 (30_encoding.md R70). -/
abbrev EventWord := BitVec 12

end Sys2Proof
end

