-- ==== Sys2Proof/Config.lean ====
section
/-! DEFINITION. The implementation parameters (00_scope.md R7) as the record `Cfg`, the fixed frame markers,
the default configurations, and the free values: constants with no body, for what the spec gives no value. -/

namespace Sys2Proof

/-- `DOMAIN[i]` (R7, R203): a boolean output takes 0 or 1, a byte output 0..255. -/
inductive Domain where
  | bool
  | byte
deriving DecidableEq, Repr

/-- `CONTROL` (R7): which command interface is connected. -/
inductive Control where
  | serial
  | localTable
deriving DecidableEq, Repr

/-- `PROTOCOL` (R7): the serial frame form. -/
inductive Protocol where
  | twoField
  | multiField
deriving DecidableEq, Repr

/-- `RESERVED_POLICY` (R7, R169): what a DATA byte equal to a frame marker means. -/
inductive ReservedPolicy where
  | reject
  | accept
deriving DecidableEq, Repr

/-- The configuration record of R7. It is an argument of every rule and no event changes it (R252 (a)); a
machine state carries it, so that a statement about every state is one about every configuration.
Output indices are 1-based: `domain` lists `DOMAIN[1]`, `DOMAIN[2]`, ... in order. -/
structure Cfg where
  /-- `N_OUT`, legal 1..255. -/
  nOut : Nat
  /-- `DOMAIN[1..N_OUT]`. -/
  domain : List Domain
  /-- `CONTROL`. -/
  control : Control
  /-- `PROTOCOL`. -/
  protocol : Protocol
  /-- `RX_MAX`, the payload buffer's capacity in bytes, legal 1..256. -/
  rxMax : Nat
  /-- `TICK_THRESHOLD`, legal 1..65535; the spec leaves it OPEN, with no default (D17). -/
  tickThreshold : Nat
  /-- `CMD_INIT`. -/
  cmdInit : Byte
  /-- `CMD_FADE`. -/
  cmdFade : Byte
  /-- `CMD_SET_VAL`. -/
  cmdSetVal : Byte
  /-- `CMD_SET_VAL_ALL`. -/
  cmdSetValAll : Byte
  /-- `RESERVED_POLICY`. -/
  reservedPolicy : ReservedPolicy
  /-- `COUNT_RANGE_ERRORS`. -/
  countRangeErrors : Bool
  /-- The red output of `STRIP`. -/
  stripR : Nat
  /-- The green output of `STRIP`. -/
  stripG : Nat
  /-- The blue output of `STRIP`. -/
  stripB : Nat
  /-- `LOCAL_ON`. -/
  localOn : Byte
  /-- `LOCAL_FADE_LOW`. -/
  localFadeLow : Byte
  /-- `LOCAL_FADE_HIGH`. -/
  localFadeHigh : Byte
  /-- `LOCAL_FADE_STEP`. -/
  localFadeStep : Byte
  /-- `LOCAL_FLASH_DIV`. -/
  localFlashDiv : Byte
deriving DecidableEq, Repr

namespace Config

/-- `START_BYTE`, the code of `'<'`, fixed (R7, R77). -/
def startByte : Byte := 0x3C

/-- `END_BYTE`, the code of `'>'`, fixed (R7, R77). -/
def endByte : Byte := 0x3E

/-- The defaults of R7, SERIAL profile. `TICK_THRESHOLD` has no default in the spec (OPEN, D17): 1 here is a
DESIGN CHOICE (log entry 3), made only so that a reset state can be written down; unsafe to rely on. -/
def defaultCfg : Cfg where
  nOut := 3
  domain := [.bool, .byte, .byte]
  control := .serial
  protocol := .twoField
  rxMax := 8
  tickThreshold := 1
  cmdInit := 0x00
  cmdFade := 0x01
  cmdSetVal := 0x02
  cmdSetValAll := 0x03
  reservedPolicy := .reject
  countRangeErrors := false
  stripR := 1
  stripG := 2
  stripB := 3
  localOn := 255
  localFadeLow := 1
  localFadeHigh := 75
  localFadeStep := 1
  localFlashDiv := 0

/-- FREE VALUE (log entry 8): `dom(i, v)` for an index that names no output. R203 defines it for `1 ≤ i ≤ N_OUT`
only, and no state of `BlockInv` (Safety.lean) asks for another index. -/
opaque openDomain (i v : Byte) : Bool

/-- FREE VALUE (log entry 8): `FV(cmd, k, b)` at a position R168 marks with a dash (the byte count never
reaches it), or for a command byte that is no command. No state of `BlockInv` asks for it. -/
opaque openFieldValid (cmd : Byte) (k : Nat) (b : Byte) : Bool

/-- FREE VALUE (log entry 8): what the u8 `rx_count` holds when `k + 1` (R166) does not fit it. R9 reduces a
result only where a rule says so, and R166 does not; no state of `BlockInv` reaches it. -/
opaque openCount (count : Nat) : Byte

/-- FREE VALUE (log entry 8): what a read of `rx_buf[k]` gives for a `k` outside 0..RX_MAX-1, where R50 (a) has no
byte, with the buffer as it stands. No state of `BlockInv` reads one. -/
opaque openByte (buf : List Host.Cell) (k : Nat) : Byte

end Config

end Sys2Proof
end

