-- ==== Sys2Proof/Syntax.lean ====
section
/-! DEFINITION. The instructions: one constructor per row of spec/opcode_table.json, that is the input events of
30_encoding.md R70 (the local codes of R78 one each) and the frame commands of R73, R74 and R81; and the encoded
form the environment hands to the block. -/

namespace Sys2Proof

/-- One instruction of the opcode table. -/
inductive Instr where
  /-- `reset`, event tag 0x0 (R250). -/
  | reset
  /-- `irq`, TIMER_IRQ, event tag 0x1 (R100). -/
  | irq
  /-- `poll`, event tag 0x2 (R130). -/
  | poll
  /-- `rx b`, event tag 0x3 with the received byte (R160). -/
  | rx (b : Byte)
  /-- `local 0`, off (R135). -/
  | local0
  /-- `local 1`, solid red (R136). -/
  | local1
  /-- `local 2`, solid green (R137). -/
  | local2
  /-- `local 3`, solid blue (R138). -/
  | local3
  /-- `local 4`, solid white (R139). -/
  | local4
  /-- `local 5`, flashing red (R140). -/
  | local5
  /-- `local 6`, flashing green (R141). -/
  | local6
  /-- `local 7`, white fade (R142). -/
  | local7
  /-- `setdiv n`, SET_DIV, event tag 0x5 with the divider (R102). -/
  | setdiv (n : Byte)
  /-- `frame2 i, v`, the two-field set frame (R73, R202). -/
  | frame2 (i v : Byte)
  /-- `init`, the multi-field INIT frame (R74, R206). -/
  | init
  /-- `fade i, lo, hi, st`, the multi-field FADE frame (R74, R207). -/
  | fade (i lo hi st : Byte)
  /-- `setval i, v`, the multi-field SET_VAL frame (R74, R208). -/
  | setval (i v : Byte)
  /-- `setall v1, ..., vN`, the multi-field SET_VAL_ALL frame, one value per output in index order (R74, R209). -/
  | setall (vs : List Byte)
deriving DecidableEq, Repr

/-- What the environment supplies next: one event of R70 as its 12-bit event word, or the bytes of one line of
R81's assembly (a frame) in arrival order. A frame stands for that many RX events with none between them
(log entry 5); frames with other events between their bytes are spelled as event words. -/
inductive Input where
  | event (w : EventWord)
  | frame (bytes : List Byte)
deriving DecidableEq, Repr

end Sys2Proof
end

