-- ==== Sys2Proof/Machine/State.lean ====
section
/-! DEFINITION. The state record of 10_state.md R22 as plain data, with the step outputs of 30_encoding.md R71,
the model-only mark of R38, the configuration and the environment's event sequence; the reasons a step can stop;
the state RESET leaves. -/

namespace Sys2Proof.Machine

/-- EffectMode (R27). -/
inductive EffectMode where
  | off
  | solid
  | flash
  | fade
deriving DecidableEq, Repr

/-- One entry `ch[i]` of the channel file (R26). -/
structure Channel where
  /-- `ch[i].mode` (R27). -/
  mode : EffectMode
  /-- `ch[i].color`: the colour of SOLID and FLASH (R27). -/
  color : Byte
  /-- `ch[i].low`: FADE's floor (R27). -/
  low : Byte
  /-- `ch[i].high`: FADE's ceiling (R27). -/
  high : Byte
  /-- `ch[i].step`: FADE's step (R27). -/
  step : Byte
  /-- `ch[i].value`: the duty value shown on `duty[i]` (R29). -/
  value : Byte
  /-- `ch[i].phase`: FLASH false = off, true = on; FADE false = rising, true = falling (R28). -/
  phase : Bool
deriving DecidableEq, Repr

/-- The u3 `rx_state` (R31): the five parser states, and the three values 5, 6 and 7 that no rule writes and
that only a hand-built start state can hold (R160). -/
inductive RxState where
  | wait
  | size
  | commandOrIndex
  | data
  | validate
  | unused5
  | unused6
  | unused7
deriving DecidableEq, Repr

/-- The error a step raised, with the information R220 says it records. -/
inductive StepError where
  /-- NONE. -/
  | none
  /-- FrameSyntaxError(START): a malformed start byte in WAIT (R161). -/
  | frameSyntaxStart
  /-- FrameSyntaxError(b): a wrong terminator in VALIDATE (R167). -/
  | frameSyntax (b : Byte)
  /-- FieldRangeError(b) (R162, R165, R166). -/
  | fieldRange (b : Byte)
  /-- BufferOverflowError(b) (R164). -/
  | bufferOverflow (b : Byte)
  /-- OutputInvalid(i, v) (R200, R224). -/
  | outputInvalid (i v : Byte)
deriving DecidableEq, Repr

/-- A dispatch record (R71). -/
inductive DispatchRecord where
  | setOutput (i v : Byte)
  | init
  | fade (i low high step : Byte)
deriving DecidableEq, Repr

/-- The step output record of one event (R11, R71). -/
structure StepOut where
  /-- `disp`: the dispatch records the step produced, in order. -/
  disp : List DispatchRecord
  /-- `err`: the error the step raised, or NONE. -/
  err : StepError
  /-- `consumed`: what the POLL's consume-and-clear returned; false for every other event. -/
  consumed : Bool
deriving DecidableEq, Repr

/-- The output record of an event that dispatches nothing, raises nothing and consumes no tick. -/
def StepOut.quiet : StepOut := { disp := [], err := .none, consumed := false }

/-- The payload buffer `rx_buf` (R33, R50) as (index, byte) pairs in one canonical form: indices strictly
rising, no byte 0 listed. An unlisted index reads 0, the reset contents R22 gives. -/
abbrev Memory := List Host.Cell

/-- The machine's state. -/
structure State where
  /-- `Cfg` (R7): fixed for the machine, an argument of every rule. The model's place for it. -/
  cfg : Cfg
  /-- `tick_cnt` (u16, R23). -/
  tickCnt : BitVec 16
  /-- `tick_flag` (R24). -/
  tickFlag : Bool
  /-- `div_n` (u8, R25). -/
  divN : Byte
  /-- The channel file (R26): `ch[1]`, `ch[2]`, ..., `ch[N_OUT]` in order. -/
  ch : List Channel
  /-- `local_code` (u3, R30). -/
  localCode : BitVec 3
  /-- `rx_state` (u3, R31). -/
  rxState : RxState
  /-- `rx_size` (u8, R32). -/
  rxSize : Byte
  /-- `rx_cmd` (u8, R32). -/
  rxCmd : Byte
  /-- `rx_count` (u8, R32). -/
  rxCount : Byte
  /-- `rx_buf` (R33). -/
  rxBuf : Memory
  /-- `err_count` (u8, R34), shown on port `err_count`. -/
  errCount : Byte
  /-- The sticky model-only mark of R12 and R38. -/
  refused : Bool
  /-- The step outputs `disp`, `err` and `consumed` of the last step (R71): one record per input event the step
  took, so one for an event, one per byte for a frame, none for a refused event. -/
  outs : List StepOut
  /-- The environment's event sequence still to come (R21, R58): not a register of the block. -/
  inputs : List Input
deriving DecidableEq, Repr

/-- The reasons a step can stop with a fault: there are none. The block has no fault outcome (R226), and the rules
give every event a next state, from a hand-built start state as well (R12, R251, I20). -/
inductive Fault where
deriving DecidableEq, Repr

/-- The reasons the model gives an instruction no meaning. An event the SPEC refuses (R12) is not one of these:
its effect, the sticky mark, is modelled as a next state. -/
inductive Refusal where
  /-- The instruction is not modelled yet. Raised by `exec`'s arms only; no arm does. Safe. -/
  | notModelled (mnemonic : String)
deriving DecidableEq, Repr

/-- The reset value of every channel (R22): OFF with every field 0. -/
def Channel.reset : Channel :=
  { mode := .off, color := 0, low := 0, high := 0, step := 0, value := 0, phase := false }

/-- The state a run starts in under a configuration (R22, R250, R251): nothing refused, no step taken yet, and
no event supplied yet. -/
def State.resetOf (cfg : Cfg) : State where
  cfg := cfg
  tickCnt := 0
  tickFlag := false
  divN := 0
  ch := List.replicate cfg.nOut Channel.reset
  localCode := 0
  rxState := .wait
  rxSize := 0
  rxCmd := 0
  rxCount := 0
  rxBuf := []
  errCount := 0
  refused := false
  outs := []
  inputs := []

/-- The machine right after reset, under the default configuration of R7 (log entries 2 and 3). -/
def State.reset : State := State.resetOf Config.defaultCfg

end Sys2Proof.Machine
end

