-- ==== Sys2Proof/Machine/Flags.lean ====
section
/-! DEFINITION. The flag computations: the threshold that sets `tick_flag` (40_timing_base.md), what counts in
`err_count` (60_exceptions.md R223), and the `phase` and value of the two moving effects (41_effect_engine.md). -/

namespace Sys2Proof.Machine

/-- `thr_eff(n)` (R101), with `T = TICK_THRESHOLD`: `T` for the divider 0, else `max(1, T div n)`. -/
def thrEff (threshold : Nat) (n : Byte) : Nat :=
  if n = 0 then threshold else max 1 (threshold / n.toNat)

/-- Whether a TIMER_IRQ sets `tick_flag` (R100): the count it makes reaches the threshold. -/
def tickReached (thr : Nat) (count : BitVec 16) : Bool :=
  decide (thr ≤ count.toNat + 1)

/-- `tick_cnt` after a TIMER_IRQ (R100): the remainder when the threshold is reached, else the count itself. -/
def nextCount (thr : Nat) (count : BitVec 16) : BitVec 16 :=
  if tickReached thr count then BitVec.ofNat 16 ((count.toNat + 1) % thr)
  else BitVec.ofNat 16 (count.toNat + 1)

/-- `counted(E)` (R223): the errors that increment `err_count`. -/
def counted (cfg : Cfg) : StepError → Bool
  | .none => false
  | .frameSyntaxStart => false
  | .frameSyntax _ => true
  | .fieldRange _ => cfg.countRangeErrors
  | .bufferOverflow _ => cfg.countRangeErrors
  | .outputInvalid _ _ => false

/-- `clamp(x, lo, hi)` over the integers (R10). -/
def clamp (x lo hi : Int) : Int := min (max x lo) hi

/-- Stage 1 of ADVANCE_FADE (R129): the direction corrected at a bound. `true` is falling. -/
def fadeDirection (c : Channel) : Bool :=
  if c.phase = false ∧ c.high.toNat ≤ c.value.toNat then true
  else if c.phase = true ∧ c.value.toNat ≤ c.low.toNat then false
  else c.phase

/-- Stage 2 of ADVANCE_FADE (R129): one step in the direction of stage 1, clamped to the bounds. -/
def fadeValue (c : Channel) : Int :=
  if fadeDirection c then clamp ((c.value.toNat : Int) - c.step.toNat) c.low.toNat c.high.toNat
  else clamp ((c.value.toNat : Int) + c.step.toNat) c.low.toNat c.high.toNat

/-- Stage 3 of ADVANCE_FADE (R129): the direction set by the bound reached, the floor test last. -/
def fadePhase (c : Channel) : Bool :=
  if fadeValue c = c.low.toNat then false
  else if fadeValue c = c.high.toNat then true
  else fadeDirection c

end Sys2Proof.Machine
end

