-- ==== Sys2Proof/Machine/Ops.lean ====
section
/-! DEFINITION. The named operations over the state: the legality of a configuration (00_scope.md R8), refusing an
event (R12), the payload buffer (20_memory.md R50), the channel file and its selections (41_effect_engine.md R120
to R124), the event stream, the consume-and-clear (40_timing_base.md R103), and raising an error with its recovery
(60_exceptions.md R222), which is this block's only kind of exception: it has no trap entry and no return (R230,
R231). -/

namespace Sys2Proof.Machine

/-! ## The configuration -/

/-- R8 (e): the STRIP indices are distinct, lie in 1..N_OUT and have DOMAIN = BYTE. -/
def stripLegal (c : Cfg) : Bool :=
  decide (c.stripR ≠ c.stripG ∧ c.stripR ≠ c.stripB ∧ c.stripG ≠ c.stripB) &&
    [c.stripR, c.stripG, c.stripB].all fun i =>
      decide (1 ≤ i ∧ i ≤ c.nOut) && decide (c.domain[i - 1]? = some Domain.byte)

/-- `Cfg` is well-formed (R8 (a) to (f)); `DOMAIN` gives one domain for each output (R7). -/
def cfgLegal (c : Cfg) : Bool :=
  decide (1 ≤ c.nOut ∧ c.nOut ≤ 255) &&
  decide (c.domain.length = c.nOut) &&
  decide (1 ≤ c.tickThreshold ∧ c.tickThreshold ≤ 65535) &&
  decide (1 ≤ c.rxMax ∧ c.rxMax ≤ 256) &&
  decide ([c.cmdInit, c.cmdFade, c.cmdSetVal, c.cmdSetValAll].Nodup) &&
  (decide (c.control = .serial) || stripLegal c) &&
  decide (c.localFadeLow.toNat ≤ c.localFadeHigh.toNat)

/-! ## The numeric encodings -/

/-- The u2 encoding of EffectMode (R27). No event reads it. -/
def modeCode : EffectMode → BitVec 2
  | .off => 0
  | .solid => 1
  | .flash => 2
  | .fade => 3

/-- The u3 encoding of `rx_state` (R31). No output shows it. -/
def rxStateCode : RxState → BitVec 3
  | .wait => 0
  | .size => 1
  | .commandOrIndex => 2
  | .data => 3
  | .validate => 4
  | .unused5 => 5
  | .unused6 => 6
  | .unused7 => 7

/-- The code of the error class on the `err` port (R71, R220). -/
def errCode : StepError → BitVec 3
  | .none => 0
  | .frameSyntaxStart => 1
  | .frameSyntax _ => 1
  | .fieldRange _ => 2
  | .bufferOverflow _ => 3
  | .outputInvalid _ _ => 4

/-! ## Step outputs and refusal -/

/-- The state with the output record of the event just taken. -/
def emit (o : StepOut) (s : State) : State := { s with outs := [o] }

/-- The effect of a refused event (R12, R38): the sticky mark is set, nothing else of the block changes, and there
is no output record. -/
def refuseEvent (s : State) : Host.Outcome State Fault Refusal :=
  .next { s with refused := true, outs := [] }

/-- Any event under an ill-formed configuration is refused (R12). -/
def underLegalCfg (s : State) (body : Host.Outcome State Fault Refusal) : Host.Outcome State Fault Refusal :=
  if cfgLegal s.cfg then body else refuseEvent s

/-- The level output `duty[i]` (R71): `ch[i].value`, for an index that names an output. -/
def dutyPort (s : State) (i : Nat) : Option Byte :=
  if i = 0 then none else (s.ch[i - 1]?).map Channel.value

/-- The level output `err_count` (R71). -/
def errCountPort (s : State) : Byte := s.errCount

/-! ## The payload buffer -/

/-- One byte of a memory: an unlisted index reads 0 (R22). -/
def memRead : Memory → Nat → Byte
  | [], _ => 0
  | (k, v) :: m, a => if a = k then v else memRead m a

/-- A write that keeps the canonical form: indices rising, no byte 0 listed. -/
def memWrite : Memory → Nat → Byte → Memory
  | [], a, b => if b = 0 then [] else [(a, b)]
  | (k, v) :: m, a, b =>
    if a < k then (if b = 0 then (k, v) :: m else (a, b) :: (k, v) :: m)
    else if a = k then (if b = 0 then m else (a, b) :: m)
    else (k, v) :: memWrite m a b

/-- The canonical form of a buffer of `size` bytes whose listed indices are at least `from`. -/
def memWfFrom (size : Nat) : Nat → Memory → Bool
  | _, [] => true
  | start, (k, v) :: m => decide (start ≤ k ∧ k < size ∧ v ≠ 0) && memWfFrom size (k + 1) m

/-- The payload buffer is in its canonical form: indices strictly rising and below `RX_MAX`, no byte 0 listed. -/
def Memory.wf (size : Nat) (m : Memory) : Bool := memWfFrom size 0 m

/-- `MemRead(k, 1)` (R10): `rx_buf[k]`. Outside 0..RX_MAX-1 there is no byte (R50 (a)): a hand-built state that
reads one gets the free value `Config.openByte` (log entry 8). -/
def bufRead (cfg : Cfg) (m : Memory) (k : Nat) : Byte :=
  if k < cfg.rxMax then memRead m k else Config.openByte m k

/-- `MemWrite(k, 1, b)` (R10): `rx_buf[k] <- b` and no other byte. Outside 0..RX_MAX-1 there is no byte to write
(R50 (a)), so every byte stays as it was (DEDUCED, log entry 9). -/
def bufWrite (cfg : Cfg) (m : Memory) (k : Nat) (b : Byte) : Memory :=
  if k < cfg.rxMax then memWrite m k b else m

/-! ## The channel file and SELECT -/

/-- The channel OFF writes (R121). -/
def offChannel : Channel :=
  { mode := .off, color := 0, low := 0, high := 0, step := 0, value := 0, phase := false }

/-- The channel SOLID(c) writes (R122). -/
def solidChannel (c : Byte) : Channel :=
  { mode := .solid, color := c, low := 0, high := 0, step := 0, value := c, phase := false }

/-- The channel FLASH(c) writes: off, so that the first tick turns it on (R123). -/
def flashChannel (c : Byte) : Channel :=
  { mode := .flash, color := c, low := 0, high := 0, step := 0, value := 0, phase := false }

/-- The channel FADE(lo, hi, st) writes: at the floor, rising (R124). -/
def fadeChannel (lo hi st : Byte) : Channel :=
  { mode := .fade, color := 0, low := lo, high := hi, step := st, value := lo, phase := false }

/-- `ch[i] <- c` for `1 ≤ i ≤ N_OUT`, which every caller has checked (R120). -/
def setChannel (i : Nat) (c : Channel) (s : State) : State := { s with ch := s.ch.set (i - 1) c }

/-- SELECT_OFF(i) (R121). -/
def selectOff (i : Nat) (s : State) : State := setChannel i offChannel s

/-- SELECT_SOLID(i, c) (R122). -/
def selectSolid (i : Nat) (c : Byte) (s : State) : State := setChannel i (solidChannel c) s

/-- SELECT_FLASH(i, c, p) (R123): it also writes the global divider. -/
def selectFlash (i : Nat) (c p : Byte) (s : State) : State := { setChannel i (flashChannel c) s with divN := p }

/-- SELECT_FADE(i, lo, hi, st) (R124). -/
def selectFade (i : Nat) (lo hi st : Byte) (s : State) : State := setChannel i (fadeChannel lo hi st) s

/-! ## The tick flag -/

/-- CONSUME (R103): the atomic read-and-clear; the flag's value and the state with it cleared. -/
def consume (s : State) : Bool × State := (s.tickFlag, { s with tickFlag := false })

/-! ## Raising an error -/

/-- The return to WAIT with every parser field cleared (R33, R222). -/
def toWait (s : State) : State :=
  { s with rxState := .wait, rxSize := 0, rxCmd := 0, rxCount := 0, rxBuf := [] }

/-- `err_count` after an error (R222, R223): plus one modulo 256 if the error is counted. -/
def countError (e : StepError) (s : State) : State :=
  if counted s.cfg e then { s with errCount := s.errCount + 1 } else s

/-- `raise E(info)` for the three parser classes (R222): the error on the `err` output, the return to WAIT, and
the count. -/
def raiseError (e : StepError) (s : State) : Host.Outcome State Fault Refusal :=
  .next (emit { StepOut.quiet with err := e } (countError e (toWait s)))

end Sys2Proof.Machine
end

