-- ==== Sys2Proof/Machine/EffectEngine.lean ====
section
/-! DEFINITION. The Effect Engine's advance and the POLL event (41_effect_engine.md R125 to R130). -/

namespace Sys2Proof.Machine

/-- ADVANCE_FLASH (R128): the phase toggles and the value follows the new phase. -/
def advanceFlash (c : Channel) : Channel :=
  { c with phase := !c.phase, value := if c.phase then 0 else c.color }

/-- ADVANCE_FADE (R129). The stepped value lies between two bytes, so it fits the u8. -/
def advanceFade (c : Channel) : Channel :=
  { c with value := BitVec.ofInt 8 (fadeValue c), phase := fadePhase c }

/-- ADVANCE(i, t) (R125) as a function of the channel: nothing without a tick, else by mode (R126 to R129). -/
def advance (tick : Bool) (c : Channel) : Channel :=
  if tick then
    match c.mode with
    | .off => c
    | .solid => c
    | .flash => advanceFlash c
    | .fade => advanceFade c
  else c

/-- POLL (R130): consume-and-clear, then ADVANCE of every channel with what it returned. -/
def execPoll (s : State) : Host.Outcome State Fault Refusal :=
  underLegalCfg s <| .next <|
    emit { StepOut.quiet with consumed := (consume s).1 }
      { (consume s).2 with ch := (consume s).2.ch.map (advance (consume s).1) }

end Sys2Proof.Machine
end

