-- ==== Sys2Proof/Machine/Operands.lean ====
section
/-! DEFINITION. The operand forms: which byte values a frame field may take. The domain test (43_output_assignment.md
R203), the output index (R73), the reserved bytes (42_parser.md R169), the command codes and payload sizes
(30_encoding.md R76, 43_output_assignment.md R205), and the field validator (42_parser.md R168). Every field is a raw
unsigned byte, zero-extended (30_encoding.md R77). -/

namespace Sys2Proof.Machine

/-- A value of a domain (R203): 0 or 1 for BOOL, any byte for BYTE. -/
def inDomain : Domain → Byte → Bool
  | .bool, v => decide (v.toNat ≤ 1)
  | .byte, _ => true

/-- An index that names an output: `1 ≤ i ≤ N_OUT` (R50 (b)). -/
def isIndex (cfg : Cfg) (i : Byte) : Bool := decide (1 ≤ i.toNat ∧ i.toNat ≤ cfg.nOut)

/-- The domain test `dom(i, v)` (R203). For an index that names no output the spec gives no value: it is the free
value `Config.openDomain` (log entry 8). -/
def dom (cfg : Cfg) (i v : Byte) : Bool :=
  if i = 0 then Config.openDomain i v
  else match cfg.domain[i.toNat - 1]? with
    | some d => inDomain d v
    | none => Config.openDomain i v

/-- A reserved payload byte: a frame marker, under `RESERVED_POLICY = REJECT` (R169). -/
def isReserved (cfg : Cfg) (b : Byte) : Bool :=
  decide (cfg.reservedPolicy = .reject) && (b == Config.startByte || b == Config.endByte)

/-- The four commands of RX_COMMANDES (R76). -/
inductive Command where
  | init
  | fade
  | setVal
  | setValAll
deriving DecidableEq, Repr

/-- The command a COMMAND byte selects, by equality with the four codes (R204). -/
def commandOf (cfg : Cfg) (c : Byte) : Option Command :=
  if c = cfg.cmdInit then some .init
  else if c = cfg.cmdFade then some .fade
  else if c = cfg.cmdSetVal then some .setVal
  else if c = cfg.cmdSetValAll then some .setValAll
  else none

/-- ESIZE(c), the payload size of a command (R205). -/
def esize (cfg : Cfg) : Command → Nat
  | .init => 0
  | .fade => 4
  | .setVal => 2
  | .setValAll => cfg.nOut

/-- FV for the FADE command (R168): index, low, high at least low, step. -/
def fadeFieldValid (cfg : Cfg) (cmd : Byte) (m : Memory) (k : Nat) (b : Byte) : Bool :=
  match k with
  | 0 => isIndex cfg b
  | 1 => dom cfg (bufRead cfg m 0) b
  | 2 => dom cfg (bufRead cfg m 0) b && decide ((bufRead cfg m 1).toNat ≤ b.toNat)
  | 3 => true
  | _ => Config.openFieldValid cmd k b

/-- FV for the SET_VAL command (R168): index, value. -/
def setValFieldValid (cfg : Cfg) (cmd : Byte) (m : Memory) (k : Nat) (b : Byte) : Bool :=
  match k with
  | 0 => isIndex cfg b
  | 1 => dom cfg (bufRead cfg m 0) b
  | _ => Config.openFieldValid cmd k b

/-- The field validator FV(cmd, k, b) (R168), with the payload bytes stored so far. A position the table marks with a
dash, or a command byte that is no command, has no value in the spec: the free value `Config.openFieldValid`
(log entry 8). -/
def fieldValid (cfg : Cfg) (cmd : Byte) (m : Memory) (k : Nat) (b : Byte) : Bool :=
  match cfg.protocol with
  | .twoField => if k = 0 then dom cfg cmd b else Config.openFieldValid cmd k b
  | .multiField =>
    match commandOf cfg cmd with
    | some .setVal => setValFieldValid cfg cmd m k b
    | some .fade => fadeFieldValid cfg cmd m k b
    | some .setValAll => if k < cfg.nOut then dom cfg (BitVec.ofNat 8 (k + 1)) b else Config.openFieldValid cmd k b
    | some .init => Config.openFieldValid cmd k b
    | none => Config.openFieldValid cmd k b

end Sys2Proof.Machine
end

