-- ==== Sys2Proof/WellFormed.lean ====
section
/-! DEFINITION. When an instruction is one the encoding admits under a configuration: the frame forms of
30_encoding.md R73 and R74 with the field domains of 42_parser.md R168 and R169. An event's payload width is part of
its kind (R72), so an event carries nothing to check. -/

namespace Sys2Proof

open Sys2Proof.Machine

/-- No byte of a payload is reserved (R169). -/
def noneReserved (cfg : Cfg) (data : List Byte) : Bool := data.all fun b => !isReserved cfg b

/-- The values of SET_VAL_ALL from output `k + 1` on lie in their outputs' domains (R168, R205). -/
def valuesInDomain (cfg : Cfg) : Nat → List Byte → Bool
  | _, [] => true
  | k, v :: vs => dom cfg (BitVec.ofNat 8 (k + 1)) v && valuesInDomain cfg (k + 1) vs

/-- Well-formed under a configuration. -/
def Instr.wellFormed (cfg : Cfg) : Instr → Bool
  | .reset => true
  | .irq => true
  | .poll => true
  | .rx _ => true
  | .local0 => true
  | .local1 => true
  | .local2 => true
  | .local3 => true
  | .local4 => true
  | .local5 => true
  | .local6 => true
  | .local7 => true
  | .setdiv _ => true
  | .frame2 i v =>
    decide (cfg.protocol = .twoField) && isIndex cfg i && dom cfg i v && noneReserved cfg [v]
  | .init => decide (cfg.protocol = .multiField) && decide (0 < cfg.rxMax)
  | .fade i lo hi st =>
    decide (cfg.protocol = .multiField) && decide (4 < cfg.rxMax) && isIndex cfg i && dom cfg i lo && dom cfg i hi &&
      decide (lo.toNat ≤ hi.toNat) && noneReserved cfg [i, lo, hi, st]
  | .setval i v =>
    decide (cfg.protocol = .multiField) && decide (2 < cfg.rxMax) && isIndex cfg i && dom cfg i v &&
      noneReserved cfg [i, v]
  | .setall vs =>
    decide (cfg.protocol = .multiField) && decide (cfg.nOut < cfg.rxMax) && decide (vs.length = cfg.nOut) &&
      valuesInDomain cfg 0 vs && noneReserved cfg vs

end Sys2Proof
end

