-- ==== Sys2Proof/Decode.lean ====
section
/-! DEFINITION. The decoder of event words (30_encoding.md R70, R72, R79) and of frames (R73 to R77), total and
rejecting by name; after it the encoder (R80, R81), and the opcode table's own numbering of words. -/

namespace Sys2Proof

open Sys2Proof.Machine

/-- Why a word or a sequence of bytes is no instruction. -/
inductive DecodeError where
  /-- An event word with a reserved tag, 0x6 to 0xF (R72, R79). -/
  | reservedTag
  /-- An event word with a payload bit its kind does not carry (R72). -/
  | strayPayload
  /-- A frame that does not begin with START_BYTE (R73, R74). -/
  | badStart
  /-- A frame whose last byte is not END_BYTE (R73, R74). -/
  | badEnd
  /-- A two-field frame with INDEX 0, which names no output whatever `N_OUT` is (R50 (b), R73). -/
  | badIndex
  /-- A frame whose length is not 4 (TWO_FIELD) or SIZE + 4 (MULTI_FIELD) (R75). -/
  | badLength
  /-- A COMMAND byte that is none of the four codes (R76). -/
  | unknownCommand
  /-- A SIZE that is not the command's payload size (R74, R205). -/
  | badSize
deriving DecidableEq, Repr

/-! ## Event words -/

/-- The tag of an event word (R70). -/
def tagOf (w : EventWord) : BitVec 4 := w.extractLsb' 8 4

/-- The payload of an event word (R70). -/
def payloadOf (w : EventWord) : Byte := w.extractLsb' 0 8

/-- A kind that carries no payload: every payload bit is 0 (R72). -/
def withoutPayload (p : Byte) (i : Instr) : Except DecodeError Instr :=
  if p = 0 then .ok i else .error .strayPayload

/-- The LOCAL codes (R78): payload[2:0] is the code and payload[7:3] is 0 (R72). -/
def decodeLocal (p : Byte) : Except DecodeError Instr :=
  if p = 0 then .ok .local0
  else if p = 1 then .ok .local1
  else if p = 2 then .ok .local2
  else if p = 3 then .ok .local3
  else if p = 4 then .ok .local4
  else if p = 5 then .ok .local5
  else if p = 6 then .ok .local6
  else if p = 7 then .ok .local7
  else .error .strayPayload

/-- The event a word names (R70). -/
def decodeEvent (w : EventWord) : Except DecodeError Instr :=
  if tagOf w = 0 then withoutPayload (payloadOf w) .reset
  else if tagOf w = 1 then withoutPayload (payloadOf w) .irq
  else if tagOf w = 2 then withoutPayload (payloadOf w) .poll
  else if tagOf w = 3 then .ok (.rx (payloadOf w))
  else if tagOf w = 4 then decodeLocal (payloadOf w)
  else if tagOf w = 5 then .ok (.setdiv (payloadOf w))
  else .error .reservedTag

/-! ## Frames -/

/-- A two-field frame, in arrival order (R73). INDEX 0 is in no domain; whether another INDEX and the VALUE are in
theirs is `Instr.wellFormed`, and what the parser does with a byte that is not is R162 and R166. -/
def decodeTwoField : List Byte → Except DecodeError Instr
  | [b0, i, v, b3] =>
    if b0 ≠ Config.startByte then .error .badStart
    else if b3 ≠ Config.endByte then .error .badEnd
    else if i = 0 then .error .badIndex
    else .ok (.frame2 i v)
  | _ => .error .badLength

/-- The command a multi-field frame carries (R76, R205), from its COMMAND byte and its payload. -/
def decodeCommand (cfg : Cfg) (c : Byte) (data : List Byte) : Except DecodeError Instr :=
  match commandOf cfg c with
  | some .init =>
    match data with
    | [] => .ok .init
    | _ => .error .badSize
  | some .fade =>
    match data with
    | [i, lo, hi, st] => .ok (.fade i lo hi st)
    | _ => .error .badSize
  | some .setVal =>
    match data with
    | [i, v] => .ok (.setval i v)
    | _ => .error .badSize
  | some .setValAll => if data.length = cfg.nOut then .ok (.setall data) else .error .badSize
  | none => .error .unknownCommand

/-- A multi-field frame, in arrival order (R74): SIZE payload bytes between COMMAND and END. -/
def decodeMultiField (cfg : Cfg) : List Byte → Except DecodeError Instr
  | b0 :: size :: c :: rest =>
    if b0 ≠ Config.startByte then .error .badStart
    else if rest.length ≠ size.toNat + 1 then .error .badLength
    else if rest.getLast? ≠ some Config.endByte then .error .badEnd
    else decodeCommand cfg c rest.dropLast
  | _ => .error .badLength

/-- A frame under the configured protocol. -/
def decodeFrame (cfg : Cfg) (bytes : List Byte) : Except DecodeError Instr :=
  match cfg.protocol with
  | .twoField => decodeTwoField bytes
  | .multiField => decodeMultiField cfg bytes

/-- The decoder: total, rejecting by name. -/
def decode (cfg : Cfg) : Input → Except DecodeError Instr
  | .event w => decodeEvent w
  | .frame bytes => decodeFrame cfg bytes

/-! ## The encoder -/

/-- The event word of a tag and a payload (R70). -/
def eventWord (tag : BitVec 4) (payload : Byte) : EventWord := tag ++ payload

/-- The bytes of `frame2 i, v` in arrival order (R73, R81). -/
def twoFieldBytes (i v : Byte) : List Byte := [Config.startByte, i, v, Config.endByte]

/-- The bytes of a multi-field frame in arrival order (R74, R81): START, SIZE, COMMAND, the payload, END. -/
def multiFieldBytes (c : Byte) (data : List Byte) : List Byte :=
  Config.startByte :: BitVec.ofNat 8 data.length :: c :: (data ++ [Config.endByte])

/-- The encoder (R80, R81): the event word of an event, the bytes of a frame. -/
def encode (cfg : Cfg) : Instr → Input
  | .reset => .event (eventWord 0x0 0)
  | .irq => .event (eventWord 0x1 0)
  | .poll => .event (eventWord 0x2 0)
  | .rx b => .event (eventWord 0x3 b)
  | .local0 => .event (eventWord 0x4 0)
  | .local1 => .event (eventWord 0x4 1)
  | .local2 => .event (eventWord 0x4 2)
  | .local3 => .event (eventWord 0x4 3)
  | .local4 => .event (eventWord 0x4 4)
  | .local5 => .event (eventWord 0x4 5)
  | .local6 => .event (eventWord 0x4 6)
  | .local7 => .event (eventWord 0x4 7)
  | .setdiv n => .event (eventWord 0x5 n)
  | .frame2 i v => .frame (twoFieldBytes i v)
  | .init => .frame (multiFieldBytes cfg.cmdInit [])
  | .fade i lo hi st => .frame (multiFieldBytes cfg.cmdFade [i, lo, hi, st])
  | .setval i v => .frame (multiFieldBytes cfg.cmdSetVal [i, v])
  | .setall vs => .frame (multiFieldBytes cfg.cmdSetValAll vs)

/-! ## The opcode table's words -/

/-- The `n` bytes of a number, the most significant first: spec/opcode_table.json writes a frame as one number whose
top byte arrives first (its `frame2` row has START in bits 31..24 and END in bits 7..0). -/
def bytesOf : Nat → Nat → List Byte
  | 0, _ => []
  | n + 1, w => BitVec.ofNat 8 (w >>> (8 * n)) :: bytesOf n w

/-- The input a table word of `nbits` bits stands for: an EVENT12 word in two bytes, or the bytes of a frame. A
number with bits beyond its width is none. -/
def tableInput (nbits w : Nat) : Option Input :=
  if nbits ≤ 16 then (if w < 2 ^ 12 then some (.event (BitVec.ofNat 12 w)) else none)
  else if nbits % 8 = 0 ∧ w < 2 ^ nbits then some (.frame (bytesOf (nbits / 8) w))
  else none

/-- `c` as the code of a command; a command that had that code takes the old one, so that the four stay distinct
(R8 (d)). -/
def setCode (cfg : Cfg) (k : Command) (c : Byte) : Cfg :=
  match k with
  | .init => { cfg with cmdInit := c }
  | .fade => { cfg with cmdFade := c }
  | .setVal => { cfg with cmdSetVal := c }
  | .setValAll => { cfg with cmdSetValAll := c }

/-- The configured code of a command (R76). -/
def codeOf (cfg : Cfg) : Command → Byte
  | .init => cfg.cmdInit
  | .fade => cfg.cmdFade
  | .setVal => cfg.cmdSetVal
  | .setValAll => cfg.cmdSetValAll

/-- The configuration in which command `k` has the code `c`, the four codes still distinct. -/
def withCode (cfg : Cfg) (k : Command) (c : Byte) : Cfg :=
  match commandOf cfg c with
  | some other => setCode (setCode cfg other (codeOf cfg k)) k c
  | none => setCode cfg k c

/-- The table's row for a SIZE byte (R205). -/
def commandOfSize (size : Byte) : Command :=
  if size = 0 then .init else if size = 4 then .fade else if size = 2 then .setVal else .setValAll

/-- The configuration under which a frame of the table is the line it shows: the serial link connected, the protocol
of its format, and the command code its `c` field gives (a parameter, R76; log entry 6). -/
def frameCfg (cfg : Cfg) (bytes : List Byte) : Cfg :=
  match bytes with
  | [_, i, _, _] =>
    if i = 0 then withCode { cfg with control := .serial, protocol := .multiField } .init (bytes.getD 2 0)
    else { cfg with control := .serial, protocol := .twoField }
  | _ :: size :: c :: _ =>
    withCode { cfg with control := .serial, protocol := .multiField } (commandOfSize size) c
  | _ => cfg

/-- The LOCAL profile of a configuration (R7, D11, D29): the local selector connected and every output BYTE. -/
def localProfile (c : Cfg) : Cfg :=
  { c with control := .localTable, domain := List.replicate c.nOut .byte }

/-- The configuration that has the interface an input needs (R7, R12): unchanged where the input is already one its
interface carries. -/
def fetchCfg (cfg : Cfg) : Input → Cfg
  | .event w =>
    if tagOf w = 3 then { cfg with control := .serial }
    else if tagOf w = 4 then (if cfg.control = .localTable then cfg else localProfile cfg)
    else cfg
  | .frame bytes =>
    match decodeFrame cfg bytes with
    | .ok _ => { cfg with control := .serial }
    | .error _ => frameCfg cfg bytes

/-- The instruction the decoder reads from a table word, under the default configuration with the interface the word
needs (log entry 6). -/
def decodeTableWord (nbits w : Nat) : Option Instr :=
  match tableInput nbits w with
  | none => none
  | some x =>
    match decode (fetchCfg Config.defaultCfg x) x with
    | .ok i => some i
    | .error _ => none

end Sys2Proof
end

