-- ==== Sys2Proof/Machine/OutputAssignment.lean ====
section
/-! DEFINITION. Output Assignment (43_output_assignment.md): setOutput, the execution of each frame command, and the
dispatch of a validated frame. Each takes the state and the step's output record so far, and gives both. -/

namespace Sys2Proof.Machine

/-- setOutput(i, v) (R200): SOLID(v) on output i and one dispatch record; for an index or a value outside its
domain, no state change and OUTPUT_INVALID on `err` (R224). -/
def setOutput (i v : Byte) (s : State) (o : StepOut) : State × StepOut :=
  if isIndex s.cfg i && dom s.cfg i v then
    (selectSolid i.toNat v s, { o with disp := o.disp ++ [.setOutput i v] })
  else (s, { o with err := .outputInvalid i v })

/-- FRAME2_SET (R202): setOutput(rx_cmd, rx_buf[0]). -/
def frame2Set (s : State) (o : StepOut) : State × StepOut :=
  setOutput s.rxCmd (bufRead s.cfg s.rxBuf 0) s o

/-- CMD_INIT_EXEC (R206): OFF on every output, the default tick period, one `Init` record. -/
def cmdInitExec (s : State) (o : StepOut) : State × StepOut :=
  ({ s with ch := s.ch.map fun _ => offChannel, divN := 0 }, { o with disp := o.disp ++ [.init] })

/-- SELECT_FADE on output i as CMD_FADE_EXEC calls it (R207). The parser has checked i; in a hand-built state an index
that names no output (R50 (b)) has no channel to write (DEDUCED, log entry 9). -/
def fadeOutput (i lo hi st : Byte) (s : State) : State :=
  if isIndex s.cfg i then selectFade i.toNat lo hi st s else s

/-- CMD_FADE_EXEC (R207): FADE(lo, hi, st) on output i, one `Fade` record. -/
def cmdFadeExec (s : State) (o : StepOut) : State × StepOut :=
  (fadeOutput (bufRead s.cfg s.rxBuf 0) (bufRead s.cfg s.rxBuf 1) (bufRead s.cfg s.rxBuf 2) (bufRead s.cfg s.rxBuf 3) s,
    { o with
      disp := o.disp ++
        [.fade (bufRead s.cfg s.rxBuf 0) (bufRead s.cfg s.rxBuf 1) (bufRead s.cfg s.rxBuf 2)
          (bufRead s.cfg s.rxBuf 3)] })

/-- CMD_SET_VAL_EXEC (R208): setOutput(rx_buf[0], rx_buf[1]). -/
def cmdSetValExec (s : State) (o : StepOut) : State × StepOut :=
  setOutput (bufRead s.cfg s.rxBuf 0) (bufRead s.cfg s.rxBuf 1) s o

/-- The fan-out of R209 over the buffer indices listed: setOutput(k + 1, rx_buf[k]) for each k in turn. -/
def setOutputs : List Nat → State → StepOut → State × StepOut
  | [], s, o => (s, o)
  | k :: ks, s, o =>
    setOutputs ks (setOutput (BitVec.ofNat 8 (k + 1)) (bufRead s.cfg s.rxBuf k) s o).1
      (setOutput (BitVec.ofNat 8 (k + 1)) (bufRead s.cfg s.rxBuf k) s o).2

/-- CMD_SET_VAL_ALL_EXEC (R209): every output, in index order. -/
def cmdSetValAllExec (s : State) (o : StepOut) : State × StepOut :=
  setOutputs (List.range s.cfg.nOut) s o

/-- DISPATCH() (R201). Under MULTI_FIELD the command is the one whose code `rx_cmd` equals (R204); in a hand-built state
with an `rx_cmd` that equals none, no arm of the case runs (DEDUCED, log entry 9). -/
def dispatch (s : State) (o : StepOut) : State × StepOut :=
  match s.cfg.protocol with
  | .twoField => frame2Set s o
  | .multiField =>
    match commandOf s.cfg s.rxCmd with
    | some .init => cmdInitExec s o
    | some .fade => cmdFadeExec s o
    | some .setVal => cmdSetValExec s o
    | some .setValAll => cmdSetValAllExec s o
    | none => (s, o)

end Sys2Proof.Machine
end

