-- ==== Sys2Proof/Machine/Parser.lean ====
section
/-! DEFINITION. The Command Parser (42_parser.md): RX b, one function per parser state, and the RX events of a
sequence of bytes. -/

namespace Sys2Proof.Machine

/-- RX in WAIT (R161): START_BYTE opens a frame, any other byte is discarded with an uncounted error. -/
def rxWait (b : Byte) (s : State) : Host.Outcome State Fault Refusal :=
  if b = Config.startByte then
    match s.cfg.protocol with
    | .twoField => .next (emit .quiet { s with rxState := .commandOrIndex })
    | .multiField => .next (emit .quiet { s with rxState := .size })
  else raiseError .frameSyntaxStart s

/-- RX in COMMAND_OR_INDEX under TWO_FIELD (R162): the INDEX byte. -/
def rxIndex (b : Byte) (s : State) : Host.Outcome State Fault Refusal :=
  if isIndex s.cfg b then
    .next (emit .quiet { s with rxCmd := b, rxSize := 1, rxCount := 0, rxState := .data })
  else raiseError (.fieldRange b) s

/-- RX in SIZE (R164). -/
def rxSizeByte (b : Byte) (s : State) : Host.Outcome State Fault Refusal :=
  if b.toNat < s.cfg.rxMax then .next (emit .quiet { s with rxSize := b, rxState := .commandOrIndex })
  else raiseError (.bufferOverflow b) s

/-- Whether a COMMAND byte is accepted (R165): one of the four codes, with the declared size its payload size. -/
def commandAccepted (s : State) (b : Byte) : Bool :=
  match commandOf s.cfg b with
  | some c => decide (s.rxSize.toNat = esize s.cfg c)
  | none => false

/-- RX in COMMAND_OR_INDEX under MULTI_FIELD (R165): the COMMAND byte. -/
def rxCommand (b : Byte) (s : State) : Host.Outcome State Fault Refusal :=
  if commandAccepted s b then
    .next (emit .quiet { s with rxCmd := b, rxState := if s.rxSize = 0 then .validate else .data })
  else raiseError (.fieldRange b) s

/-- `rx_count <- k + 1` (R166); a count that does not fit the u8 is the free value `Config.openCount`
(log entry 8). -/
def countAfter (k : Nat) : Byte :=
  if k + 1 < 256 then BitVec.ofNat 8 (k + 1) else Config.openCount (k + 1)

/-- The store of an accepted payload byte (R166). -/
def rxStore (b : Byte) (s : State) : Host.Outcome State Fault Refusal :=
  .next (emit .quiet { s with
    rxBuf := bufWrite s.cfg s.rxBuf s.rxCount.toNat b
    rxCount := countAfter s.rxCount.toNat
    rxState := if s.rxCount.toNat + 1 = s.rxSize.toNat then .validate else .data })

/-- RX in DATA (R166): the reserved-byte test (R169), then the field test (R168), then the store. -/
def rxData (b : Byte) (s : State) : Host.Outcome State Fault Refusal :=
  if isReserved s.cfg b then raiseError (.fieldRange b) s
  else if fieldValid s.cfg s.rxCmd s.rxBuf s.rxCount.toNat b then rxStore b s
  else raiseError (.fieldRange b) s

/-- RX in VALIDATE (R167): END_BYTE dispatches the frame and then returns to WAIT; any other byte is a counted
error. -/
def rxValidate (b : Byte) (s : State) : Host.Outcome State Fault Refusal :=
  if b = Config.endByte then .next (emit (dispatch s .quiet).2 (toWait (dispatch s .quiet).1))
  else raiseError (.frameSyntax b) s

/-- RX b by the parser's state (R160). -/
def rxByState (b : Byte) (s : State) : Host.Outcome State Fault Refusal :=
  match s.rxState with
  | .wait => rxWait b s
  | .size => rxSizeByte b s
  | .commandOrIndex =>
    match s.cfg.protocol with
    | .twoField => rxIndex b s
    | .multiField => rxCommand b s
  | .data => rxData b s
  | .validate => rxValidate b s
  | .unused5 => refuseEvent s
  | .unused6 => refuseEvent s
  | .unused7 => refuseEvent s

/-- RX b (R160), refused unless the serial interface is connected. -/
def receive (b : Byte) (s : State) : Host.Outcome State Fault Refusal :=
  underLegalCfg s <|
    match s.cfg.control with
    | .serial => rxByState b s
    | .localTable => refuseEvent s

/-- The instruction `rx b`. -/
def execRx (b : Byte) (s : State) : Host.Outcome State Fault Refusal := receive b s

/-- RX events for the bytes in order (R62), each one's output record after those before it. -/
def receiveAll : List Byte → State → Host.Outcome State Fault Refusal
  | [], s => .next s
  | b :: bs, s =>
    match receive b s with
    | .next s' => receiveAll bs { s' with outs := s.outs ++ s'.outs }
    | .fault f => .fault f
    | .refused r => .refused r

/-- A frame's bytes as consecutive RX events, nothing between them (R81). -/
def receiveFrame (bytes : List Byte) (s : State) : Host.Outcome State Fault Refusal :=
  receiveAll bytes { s with outs := [] }

end Sys2Proof.Machine
end

