-- ==== Sys2Proof/Machine/Frames.lean ====
section
/-! DEFINITION. The frame commands as instructions (30_encoding.md R81): each is the RX events of its bytes, with
nothing between them, whatever the parser's state and protocol. The command itself (43_output_assignment.md R202,
R206 to R209) runs inside the RX that takes END_BYTE. -/

namespace Sys2Proof.Machine

/-- `frame2 i, v` (R202). -/
def execFrame2 (i v : Byte) (s : State) : Host.Outcome State Fault Refusal :=
  receiveFrame (twoFieldBytes i v) s

/-- `init` (R206). -/
def execInit (s : State) : Host.Outcome State Fault Refusal :=
  receiveFrame (multiFieldBytes s.cfg.cmdInit []) s

/-- `fade i, lo, hi, st` (R207). -/
def execFade (i lo hi st : Byte) (s : State) : Host.Outcome State Fault Refusal :=
  receiveFrame (multiFieldBytes s.cfg.cmdFade [i, lo, hi, st]) s

/-- `setval i, v` (R208). -/
def execSetval (i v : Byte) (s : State) : Host.Outcome State Fault Refusal :=
  receiveFrame (multiFieldBytes s.cfg.cmdSetVal [i, v]) s

/-- `setall v1, ..., vN` (R209). -/
def execSetall (vs : List Byte) (s : State) : Host.Outcome State Fault Refusal :=
  receiveFrame (multiFieldBytes s.cfg.cmdSetValAll vs) s

end Sys2Proof.Machine
end

