-- ==== Sys2Proof/Machine/LocalSelector.lean ====
section
/-! DEFINITION. The local mode selector (41_effect_engine.md R134 to R142). -/

namespace Sys2Proof.Machine

/-- LOCAL c (R134) with the row of the table it applies: refused unless the local selector is connected, nothing
when the code is the current one. -/
def selectLocal (c : BitVec 3) (row : State → State) (s : State) : Host.Outcome State Fault Refusal :=
  underLegalCfg s <|
    match s.cfg.control with
    | .serial => refuseEvent s
    | .localTable =>
      if c = s.localCode then .next (emit .quiet s)
      else .next (emit .quiet (row { s with localCode := c }))

/-- SOLID on the three STRIP channels, red then green then blue. -/
def stripSolid (r g b : Byte) (s : State) : State :=
  selectSolid s.cfg.stripB b (selectSolid s.cfg.stripG g (selectSolid s.cfg.stripR r s))

/-- FLASH with period `LOCAL_FLASH_DIV` on the three STRIP channels, red then green then blue. -/
def stripFlash (r g b : Byte) (s : State) : State :=
  selectFlash s.cfg.stripB b s.cfg.localFlashDiv
    (selectFlash s.cfg.stripG g s.cfg.localFlashDiv (selectFlash s.cfg.stripR r s.cfg.localFlashDiv s))

/-- OFF on the three STRIP channels. -/
def stripOff (s : State) : State :=
  selectOff s.cfg.stripB (selectOff s.cfg.stripG (selectOff s.cfg.stripR s))

/-- FADE with the local fade parameters on the three STRIP channels. -/
def stripFade (s : State) : State :=
  selectFade s.cfg.stripB s.cfg.localFadeLow s.cfg.localFadeHigh s.cfg.localFadeStep
    (selectFade s.cfg.stripG s.cfg.localFadeLow s.cfg.localFadeHigh s.cfg.localFadeStep
      (selectFade s.cfg.stripR s.cfg.localFadeLow s.cfg.localFadeHigh s.cfg.localFadeStep s))

/-- LOCAL 0, off (R135). -/
def execLocal0 (s : State) : Host.Outcome State Fault Refusal := selectLocal 0 stripOff s

/-- LOCAL 1, solid red (R136). -/
def execLocal1 (s : State) : Host.Outcome State Fault Refusal := selectLocal 1 (stripSolid s.cfg.localOn 0 0) s

/-- LOCAL 2, solid green (R137). -/
def execLocal2 (s : State) : Host.Outcome State Fault Refusal := selectLocal 2 (stripSolid 0 s.cfg.localOn 0) s

/-- LOCAL 3, solid blue (R138). -/
def execLocal3 (s : State) : Host.Outcome State Fault Refusal := selectLocal 3 (stripSolid 0 0 s.cfg.localOn) s

/-- LOCAL 4, solid white (R139). -/
def execLocal4 (s : State) : Host.Outcome State Fault Refusal :=
  selectLocal 4 (stripSolid s.cfg.localOn s.cfg.localOn s.cfg.localOn) s

/-- LOCAL 5, flashing red (R140). -/
def execLocal5 (s : State) : Host.Outcome State Fault Refusal := selectLocal 5 (stripFlash s.cfg.localOn 0 0) s

/-- LOCAL 6, flashing green (R141). -/
def execLocal6 (s : State) : Host.Outcome State Fault Refusal := selectLocal 6 (stripFlash 0 s.cfg.localOn 0) s

/-- LOCAL 7, white fade (R142). -/
def execLocal7 (s : State) : Host.Outcome State Fault Refusal := selectLocal 7 stripFade s

end Sys2Proof.Machine
end

