-- ==== Sys2Proof/Machine/ResetEvent.lean ====
section
/-! DEFINITION. The RESET event (70_reset_and_hazards.md R250). -/

namespace Sys2Proof.Machine

/-- Every register of the block at its reset value (R22, R250). The configuration, the `refused` mark and the
environment's event sequence are no registers of the block and stay. -/
def resetRegisters (s : State) : State :=
  { s with
    tickCnt := 0
    tickFlag := false
    divN := 0
    ch := List.replicate s.cfg.nOut offChannel
    localCode := 0
    rxState := .wait
    rxSize := 0
    rxCmd := 0
    rxCount := 0
    rxBuf := []
    errCount := 0 }

/-- RESET (R250): admitted under every well-formed configuration. -/
def execReset (s : State) : Host.Outcome State Fault Refusal :=
  underLegalCfg s <| .next <| emit .quiet (resetRegisters s)

end Sys2Proof.Machine
end

