-- ==== Sys2Proof/Machine/TimingBase.lean ====
section
/-! DEFINITION. The Timing Base events (40_timing_base.md): TIMER_IRQ and SET_DIV. -/

namespace Sys2Proof.Machine

/-- TIMER_IRQ (R100). -/
def execIrq (s : State) : Host.Outcome State Fault Refusal :=
  underLegalCfg s <| .next <| emit .quiet { s with
    tickCnt := nextCount (thrEff s.cfg.tickThreshold s.divN) s.tickCnt
    tickFlag := s.tickFlag || tickReached (thrEff s.cfg.tickThreshold s.divN) s.tickCnt }

/-- SET_DIV n (R102): only the divider; the pending count and the flag stay. -/
def execSetdiv (n : Byte) (s : State) : Host.Outcome State Fault Refusal :=
  underLegalCfg s <| .next <| emit .quiet { s with divN := n }

end Sys2Proof.Machine
end

