-- ==== Sys2Proof/Machine/Dispatch.lean ====
section
/-! DEFINITION. The dispatch of an instruction to its meaning: one arm per constructor of `Instr`. -/

namespace Sys2Proof.Machine

def exec (i : Instr) (s : State) : Host.Outcome State Fault Refusal :=
  match i with
  | .reset => Sys2Proof.Machine.execReset s
  | .irq => Sys2Proof.Machine.execIrq s
  | .poll => Sys2Proof.Machine.execPoll s
  | .rx b => Sys2Proof.Machine.execRx b s
  | .local0 => Sys2Proof.Machine.execLocal0 s
  | .local1 => Sys2Proof.Machine.execLocal1 s
  | .local2 => Sys2Proof.Machine.execLocal2 s
  | .local3 => Sys2Proof.Machine.execLocal3 s
  | .local4 => Sys2Proof.Machine.execLocal4 s
  | .local5 => Sys2Proof.Machine.execLocal5 s
  | .local6 => Sys2Proof.Machine.execLocal6 s
  | .local7 => Sys2Proof.Machine.execLocal7 s
  | .setdiv n => Sys2Proof.Machine.execSetdiv n s
  | .frame2 k v => Sys2Proof.Machine.execFrame2 k v s
  | .init => Sys2Proof.Machine.execInit s
  | .fade k lo hi st => Sys2Proof.Machine.execFade k lo hi st s
  | .setval k v => Sys2Proof.Machine.execSetval k v s
  | .setall vs => Sys2Proof.Machine.execSetall vs s

end Sys2Proof.Machine
end

