-- ==== Sys2Proof/Machine/Fetch.lean ====
section
/-! DEFINITION. Taking the environment's next input (20_memory.md R58, 30_encoding.md R70): the block fetches nothing
itself, it takes the events in the order the environment supplies them. -/

namespace Sys2Proof.Machine

/-- The state once the first input has been taken from the stream. -/
def takeInput (s : State) : State := { s with inputs := s.inputs.tail }

/-- An input that names no instruction: a word that names no event is refused (R72, R79); bytes that spell no frame
of the configured protocol are still received, one RX each (R79, R81). -/
def undecoded (x : Input) (s : State) : Host.Outcome State Fault Refusal :=
  match x with
  | .event _ => refuseEvent s
  | .frame bytes => receiveFrame bytes s

/-- `s` with an input put before those still to come, and the configuration that has the interface it needs. -/
def supply (x : Input) (s : State) : State :=
  { s with cfg := fetchCfg s.cfg x, inputs := x :: s.inputs }

end Sys2Proof.Machine
end

