-- ==== Sys2Proof/Machine/Step.lean ====
section
/-! DEFINITION. One step of the machine (00_scope.md R11): the next input is taken from the environment's sequence,
decoded and run. With no input there is no step and nothing changes (30_encoding.md R70, 60_exceptions.md R238). -/

namespace Sys2Proof.Machine

/-- One step. -/
def step (s : State) : Host.Outcome State Fault Refusal :=
  match s.inputs with
  | [] => .next s
  | x :: _ =>
    match decode s.cfg x with
    | .ok i => exec i (takeInput s)
    | .error _ => undecoded x (takeInput s)

/-- `s` with the instruction of a table word as the environment's next input (log entries 5 and 6). -/
def State.withFetchWord (s : State) (nbits w : Nat) : State :=
  match tableInput nbits w with
  | some x => supply x s
  | none => s

end Sys2Proof.Machine
end

