-- ==== Sys2Proof/Safety.lean ====
section
/-! DEFINITION. What the claims call a good state: the invariants of 10_state.md R35, with what the parser has checked
so far (without which R35 alone is not kept by a step), and what a refused event leaves (R38). -/

namespace Sys2Proof.Machine

/-- A channel of an output of domain `d` (R35 (d) to (h)), with every field its mode does not use 0 (R27). -/
def channelGood (d : Domain) (c : Channel) : Prop :=
  inDomain d c.value = true ∧
    match c.mode with
    | .off => c = offChannel
    | .solid => c = solidChannel c.color
    | .flash =>
      c.low = 0 ∧ c.high = 0 ∧ c.step = 0 ∧ inDomain d c.color = true ∧ c.value = if c.phase then c.color else 0
    | .fade =>
      c.color = 0 ∧ inDomain d c.high = true ∧ c.low.toNat ≤ c.value.toNat ∧ c.value.toNat ≤ c.high.toNat

/-- The channel file: one good channel for each output (R26, R35 (d) to (h)). -/
def channelsGood (s : State) : Prop :=
  s.ch.length = s.cfg.nOut ∧
    ∀ (k : Nat) (d : Domain) (c : Channel), s.cfg.domain[k]? = some d → s.ch[k]? = some c → channelGood d c

/-- No parser field holds anything (R33, R35 (b)). -/
def parserClear (s : State) : Prop := s.rxSize = 0 ∧ s.rxCmd = 0 ∧ s.rxCount = 0 ∧ s.rxBuf = []

/-- The command or index byte has been accepted (R162, R165), and every payload byte stored so far has passed the
field validator (R168). -/
def payloadGood (s : State) : Prop :=
  (match s.cfg.protocol with
    | .twoField => isIndex s.cfg s.rxCmd = true ∧ s.rxSize = 1
    | .multiField =>
      s.rxSize.toNat < s.cfg.rxMax ∧
        ∃ c, commandOf s.cfg s.rxCmd = some c ∧ s.rxSize.toNat = esize s.cfg c) ∧
    ∀ k, k < s.rxCount.toNat → fieldValid s.cfg s.rxCmd s.rxBuf k (memRead s.rxBuf k) = true

/-- The parser's registers by its state (R35 (a) to (c)). -/
def parserGood (s : State) : Prop :=
  match s.rxState with
  | .wait => parserClear s
  | .size => s.cfg.protocol = .multiField ∧ parserClear s
  | .commandOrIndex =>
    s.rxCmd = 0 ∧ s.rxCount = 0 ∧ s.rxBuf = [] ∧
      match s.cfg.protocol with
      | .twoField => s.rxSize = 0
      | .multiField => s.rxSize.toNat < s.cfg.rxMax
  | .data => payloadGood s ∧ s.rxCount.toNat < s.rxSize.toNat
  | .validate => payloadGood s ∧ s.rxCount = s.rxSize
  | .unused5 => False
  | .unused6 => False
  | .unused7 => False

/-- The invariant of the statements. It is R35 under a well-formed configuration, with three differences: what the parser
has checked so far is part of it (`payloadGood`; R35 alone is not kept by a step), `rx_size < RX_MAX` of R35 (c) is asked
for under MULTI_FIELD only (log entry 13), and R35 (i), which a SET_DIV can break, is a tick counter below the configured
threshold (R100). The payload buffer is in its canonical form. -/
structure BlockInv (s : State) : Prop where
  cfg : cfgLegal s.cfg = true
  channels : channelsGood s
  parser : parserGood s
  buffer : Memory.wf s.cfg.rxMax s.rxBuf = true
  count : s.tickCnt.toNat < s.cfg.tickThreshold

/-- The states that a run from reset reaches under a configuration, whatever the environment supplies (R58): it may
put any input in front of the block before each step. -/
inductive Reachable (cfg : Cfg) : State → Prop where
  | reset : Reachable cfg (State.resetOf cfg)
  | supply (s : State) (inputs : List Input) : Reachable cfg s → Reachable cfg { s with inputs := inputs }
  | step (s s' : State) : Reachable cfg s → Machine.step s = .next s' → Reachable cfg s'

/-- The LOCAL instruction of a code (R78). -/
def localInstr (c : BitVec 3) : Instr :=
  if c = 0 then .local0
  else if c = 1 then .local1
  else if c = 2 then .local2
  else if c = 3 then .local3
  else if c = 4 then .local4
  else if c = 5 then .local5
  else if c = 6 then .local6
  else .local7

/-- The instructions of the serial interface: a received byte, or the bytes of a frame. -/
def isSerial : Instr → Bool
  | .rx _ => true
  | .frame2 _ _ => true
  | .init => true
  | .fade _ _ _ _ => true
  | .setval _ _ => true
  | .setall _ => true
  | .reset => false
  | .irq => false
  | .poll => false
  | .local0 => false
  | .local1 => false
  | .local2 => false
  | .local3 => false
  | .local4 => false
  | .local5 => false
  | .local6 => false
  | .local7 => false
  | .setdiv _ => false

/-- Instructions taken one after the other (R58), up to the first that does not answer a next state. -/
def execAll : List Instr → State → Host.Outcome State Fault Refusal
  | [], s => .next s
  | i :: is, s =>
    match exec i s with
    | .next s' => execAll is s'
    | .fault f => .fault f
    | .refused r => .refused r

/-- A channel after `k` consumed ticks and no selection (R132, R133). -/
def afterTicks (k : Nat) (c : Channel) : Channel := Nat.iterate (advance true) k c

/-- An outcome without the step outputs, to compare runs cut into different steps. -/
def withoutOuts : Host.Outcome State Fault Refusal → Host.Outcome State Fault Refusal
  | .next s => .next { s with outs := [] }
  | .fault f => .fault f
  | .refused r => .refused r

/-- The step that led to this state dispatched something (R71). -/
def dispatched (s : State) : Prop := ∃ o ∈ s.outs, o.disp ≠ []

/-- The step that led to this state dispatched an INIT (R71, R206). -/
def initDispatched (s : State) : Prop := ∃ o ∈ s.outs, DispatchRecord.init ∈ o.disp

/-- A run that refused no event (R38). -/
def goodRun (s : State) : Prop := s.refused = false

end Sys2Proof.Machine
end

