-- ==== Sys2Proof/Certificates/Slice0/Obligations.lean ====
section
/-! DEFINITION. The statements for the provers, one `def Obligations.<Name> : Prop` each, in the order of the spec's
files. A statement about an instruction gives its whole next state as an equation, so that it holds the result, the
completion and the frame at once: whatever the record update does not name is unchanged. -/

open Sys2Proof Sys2Proof.Machine

/-! ## Reset and configuration -/

/-- R250: RESET, event word 0x000, under any well-formed configuration writes the reset value of every register, and
keeps the `refused` mark. -/
def Obligations.ResetWritesEveryResetValue : Prop :=
  decodeEvent 0x000 = .ok .reset ∧ ∀ s : State, cfgLegal s.cfg = true →
    exec .reset s = .next
      { cfg := s.cfg, tickCnt := 0, tickFlag := false, divN := 0,
        ch := List.replicate s.cfg.nOut
          { mode := .off, color := 0, low := 0, high := 0, step := 0, value := 0, phase := false },
        localCode := 0, rxState := .wait, rxSize := 0, rxCmd := 0, rxCount := 0, rxBuf := [], errCount := 0,
        refused := s.refused, outs := [{ disp := [], err := .none, consumed := false }], inputs := s.inputs }

/-- A run starts in the state RESET writes, under any configuration (R22, R251), with nothing refused (R38). That
`State.reset` uses the default configuration, with TICK_THRESHOLD 1, is the model's choice (log entries 2 and 3). -/
def Obligations.PowerOnStateIsTheResetState : Prop :=
  State.reset = State.resetOf Config.defaultCfg ∧ cfgLegal Config.defaultCfg = true ∧
  ∀ cfg : Cfg, cfgLegal cfg = true →
    exec .reset (State.resetOf cfg) = .next { State.resetOf cfg with outs := [.quiet] } ∧
    (State.resetOf cfg).refused = false

/-- A configuration is well-formed exactly when R8 (a) to (f) hold and `DOMAIN` has one entry for each output. That a
`DOMAIN` of another length is refused, and that STRIP is checked under CONTROL = LOCAL only, is the model's reading
(log entry 14). -/
def Obligations.ConfigurationLegality : Prop :=
  ∀ c : Cfg, cfgLegal c = true ↔
    (1 ≤ c.nOut ∧ c.nOut ≤ 255) ∧ c.domain.length = c.nOut ∧
    (1 ≤ c.tickThreshold ∧ c.tickThreshold ≤ 65535) ∧
    (1 ≤ c.rxMax ∧ c.rxMax ≤ 256) ∧
    (c.cmdInit ≠ c.cmdFade ∧ c.cmdInit ≠ c.cmdSetVal ∧ c.cmdInit ≠ c.cmdSetValAll ∧ c.cmdFade ≠ c.cmdSetVal ∧
      c.cmdFade ≠ c.cmdSetValAll ∧ c.cmdSetVal ≠ c.cmdSetValAll) ∧
    (c.control = .localTable →
      c.stripR ≠ c.stripG ∧ c.stripR ≠ c.stripB ∧ c.stripG ≠ c.stripB ∧
      ∀ i, i = c.stripR ∨ i = c.stripG ∨ i = c.stripB →
        1 ≤ i ∧ i ≤ c.nOut ∧ c.domain[i - 1]? = some .byte) ∧
    c.localFadeLow.toNat ≤ c.localFadeHigh.toNat

/-- R12, R38: an event the spec refuses only sets the sticky mark. The four cases: an ill-formed configuration, the
interface that is not connected, a word that names no event, and RX in an unused parser state; and no step clears
the mark. That a refused event has no output record is the model's choice (log entry 1). -/
def Obligations.RefusedEventsOnlySetTheMark : Prop :=
  (∀ (i : Instr) (s : State), cfgLegal s.cfg = false → exec i s = .next { s with refused := true, outs := [] }) ∧
  (∀ (c : BitVec 3) (s : State), s.cfg.control = .serial →
    exec (localInstr c) s = .next { s with refused := true, outs := [] }) ∧
  (∀ (i : Instr) (s : State), isSerial i = true → s.cfg.control = .localTable →
    exec i s = .next { s with refused := true, outs := [] }) ∧
  (∀ (s : State) (w : EventWord) (rest : List Input), s.inputs = .event w :: rest →
    (6 ≤ (tagOf w).toNat ∨ (tagOf w).toNat ≤ 2 ∧ payloadOf w ≠ 0 ∨ tagOf w = 4 ∧ 8 ≤ (payloadOf w).toNat) →
    step s = .next { s with inputs := rest, refused := true, outs := [] }) ∧
  (∀ (b : Byte) (s : State), s.rxState = .unused5 ∨ s.rxState = .unused6 ∨ s.rxState = .unused7 →
    exec (.rx b) s = .next { s with refused := true, outs := [] }) ∧
  ∀ s t : State, s.refused = true → step s = .next t → t.refused = true

/-- R252 (a): no instruction changes the configuration; and none touches the events still to come. -/
def Obligations.ConfigurationNeverChanges : Prop :=
  ∀ (i : Instr) (s t : State), exec i s = .next t → t.cfg = s.cfg ∧ t.inputs = s.inputs

/-! ## Fetch, decode, encode -/

/-- The environment's next input is decoded and its instruction run, with the input taken from the sequence and
nothing else of the state touched first. An input that decodes to nothing is taken too: a word that names no event is
refused, and the bytes of a frame are received one RX each. Two things are the model's choice: that a frame is one input,
run whole in one step where R11 takes one event a step (log entry 5), and that a refused word leaves no output record
(log entry 1). -/
def Obligations.StepRunsTheDecodedInstruction : Prop :=
  ∀ (s : State) (x : Input) (rest : List Input), s.inputs = x :: rest →
    (∀ i, decode s.cfg x = .ok i → step s = exec i { s with inputs := rest }) ∧
    ∀ e, decode s.cfg x = .error e →
      (∀ w, x = .event w → step s = .next { s with inputs := rest, refused := true, outs := [] }) ∧
      ∀ bytes, x = .frame bytes → step s = receiveFrame bytes { s with inputs := rest }

/-- R238: with no event no state changes. That the last step's output records stay too (R71 gives them for one step) is
the model's choice (log entry 4). -/
def Obligations.IdleCycleChangesNothing : Prop :=
  ∀ s : State, s.inputs = [] → step s = .next s

/-- R80: the words of the assembly table, and a frame of each format, decode to their instructions; a reserved tag and a
stray payload bit are rejected. That the decoder also rejects a two-field frame with INDEX 0, and leaves an INDEX above
N_OUT to the parser, is the model's choice (log entry 6). -/
def Obligations.TableWordsDecode : Prop :=
  decodeEvent 0x000 = .ok .reset ∧ decodeEvent 0x100 = .ok .irq ∧ decodeEvent 0x200 = .ok .poll ∧
  decodeEvent 0x33C = .ok (.rx 0x3C) ∧ decodeEvent 0x405 = .ok .local5 ∧ decodeEvent 0x502 = .ok (.setdiv 2) ∧
  decodeEvent 0x600 = .error .reservedTag ∧ decodeEvent 0x101 = .error .strayPayload ∧
  decodeEvent 0x408 = .error .strayPayload ∧
  decodeTwoField [0x3C, 0x02, 0x80, 0x3E] = .ok (.frame2 2 128) ∧
  decodeTwoField [0x3C, 0x00, 0x00, 0x3E] = .error .badIndex ∧
  decodeMultiField Config.defaultCfg [0x3C, 0x00, 0x00, 0x3E] = .ok .init ∧
  decodeMultiField Config.defaultCfg [0x3C, 0x04, 0x01, 0x02, 0x0A, 0x14, 0x05, 0x3E] = .ok (.fade 2 10 20 5)

/-- Decode and encode agree: every instruction that is well-formed under a well-formed configuration decodes from its
encoding, with every operand at every value. -/
def Obligations.DecodeEncodeRoundTrip : Prop :=
  ∀ (cfg : Cfg) (i : Instr), cfgLegal cfg = true → i.wellFormed cfg = true → decode cfg (encode cfg i) = .ok i

/-- The other direction: every input that decodes is the encoding of what it decodes to, so no two inputs name one
instruction. -/
def Obligations.EncodeDecodeRoundTrip : Prop :=
  ∀ (cfg : Cfg) (x : Input) (i : Instr), decode cfg x = .ok i → encode cfg i = x

/-- R81: a frame has no meaning of its own. It is its bytes received one RX event each: `n` steps over those events
leave what the frame leaves, output records apart. -/
def Obligations.FrameIsItsReceivedBytes : Prop :=
  ∀ (i : Instr) (s : State) (bytes : List Byte), encode s.cfg i = .frame bytes →
    withoutOuts (exec i s) = withoutOuts (Host.Core.run core bytes.length
      { s with inputs := (bytes.map fun b => Input.event (eventWord 3 b)) ++ s.inputs })

/-! ## Timing Base -/

/-- R100: TIMER_IRQ counts modulo the effective threshold of R101, and sets the flag on reaching it. The count it
leaves is below the threshold and at most 65534; no other instruction but RESET writes the count. -/
def Obligations.TimerIrqCountsAndFlags : Prop :=
  decodeEvent 0x100 = .ok .irq ∧
  (∀ (s : State) (thr c : Nat), cfgLegal s.cfg = true →
    thr = (if s.divN = 0 then s.cfg.tickThreshold else max 1 (s.cfg.tickThreshold / s.divN.toNat)) →
    c = s.tickCnt.toNat + 1 →
    ∃ t, exec .irq s = .next t ∧
      t = { s with tickCnt := t.tickCnt, tickFlag := t.tickFlag, outs := [.quiet] } ∧
      t.tickCnt.toNat = (if thr ≤ c then c % thr else c) ∧
      t.tickFlag = (if thr ≤ c then true else s.tickFlag) ∧
      t.tickCnt.toNat < thr ∧ t.tickCnt.toNat ≤ 65534) ∧
  ∀ (i : Instr) (s t : State), exec i s = .next t → t.tickCnt ≠ s.tickCnt → i = .irq ∨ i = .reset

/-- R101: the effective threshold, which stays in 1..T. -/
def Obligations.EffectiveThreshold : Prop :=
  ∀ (T : Nat) (n : Byte), 1 ≤ T →
    thrEff T 0 = T ∧ (n ≠ 0 → thrEff T n = max 1 (T / n.toNat)) ∧ 1 ≤ thrEff T n ∧ thrEff T n ≤ T

/-- R102: SET_DIV writes the divider alone; the new rate takes effect at the next TIMER_IRQ, whatever the count: it counts
on from the count as it stands, against the new threshold, as R100 says. So a count already at the new threshold, or one
below it, flags a tick and leaves the remainder. The selection of FLASH writes the divider the same way. -/
def Obligations.SetDivTakesEffectAtTheNextIrq : Prop :=
  ∀ (n : Byte) (s : State), cfgLegal s.cfg = true →
    decodeEvent (BitVec.ofNat 12 (0x500 + n.toNat)) = .ok (.setdiv n) ∧
    exec (.setdiv n) s = .next { s with divN := n, outs := [.quiet] } ∧
    (∃ t, execAll [.setdiv n, .irq] s = .next t ∧
      t = { s with divN := n, tickCnt := t.tickCnt, tickFlag := t.tickFlag, outs := [.quiet] } ∧
      t.tickCnt.toNat = (if thrEff s.cfg.tickThreshold n ≤ s.tickCnt.toNat + 1
        then (s.tickCnt.toNat + 1) % thrEff s.cfg.tickThreshold n else s.tickCnt.toNat + 1) ∧
      t.tickFlag = (if thrEff s.cfg.tickThreshold n ≤ s.tickCnt.toNat + 1 then true else s.tickFlag)) ∧
    ∀ (i : Nat) (c : Byte), (selectFlash i c n s).divN = n ∧ (selectFlash i c n s).tickCnt = s.tickCnt ∧
      (selectFlash i c n s).tickFlag = s.tickFlag

/-- R104: however many TIMER_IRQ events come between two POLLs, the second POLL consumes one tick if any was flagged,
each channel advances once, and a POLL right after finds no tick. -/
def Obligations.TicksCoalesce : Prop :=
  ∀ (s : State) (k : Nat), cfgLegal s.cfg = true → s.tickCnt.toNat < thrEff s.cfg.tickThreshold s.divN →
    ∃ t u, execAll (List.replicate k .irq ++ [.poll]) s = .next t ∧ exec .poll t = .next u ∧
      (let flagged := s.tickFlag || decide (thrEff s.cfg.tickThreshold s.divN ≤ s.tickCnt.toNat + k)
       t.ch = s.ch.map (advance flagged) ∧ t.outs = [{ StepOut.quiet with consumed := flagged }]) ∧
      t.tickFlag = false ∧ u = { t with outs := [.quiet] }

/-- R105: with the divider held, the count after `k` TIMER_IRQs is the start plus `k` modulo the threshold, and the
next one reaches the threshold exactly when the total is a multiple of it: every thr_eff(n)-th does. -/
def Obligations.TickRate : Prop :=
  ∀ (s : State) (k thr : Nat), cfgLegal s.cfg = true → thr = thrEff s.cfg.tickThreshold s.divN →
    s.tickCnt.toNat < thr →
    ∃ t, execAll (List.replicate k .irq) s = .next t ∧
      t.tickCnt.toNat = (s.tickCnt.toNat + k) % thr ∧
      (t.tickFlag = true ↔ s.tickFlag = true ∨ thr ≤ s.tickCnt.toNat + k) ∧
      (tickReached thr t.tickCnt = true ↔ (s.tickCnt.toNat + k + 1) % thr = 0)

/-! ## Effect Engine -/

/-- R120 to R124: each selection on a channel of an output writes every field of that channel and no other channel;
FLASH also writes the divider. -/
def Obligations.SelectionsWriteEveryField : Prop :=
  ∀ (s : State) (i : Nat) (c p lo hi st : Byte), 1 ≤ i → i ≤ s.cfg.nOut →
    selectOff i s = { s with
        ch := s.ch.set (i - 1)
          { mode := .off, color := 0, low := 0, high := 0, step := 0, value := 0, phase := false } } ∧
    selectSolid i c s = { s with
        ch := s.ch.set (i - 1)
          { mode := .solid, color := c, low := 0, high := 0, step := 0, value := c, phase := false } } ∧
    selectFlash i c p s = { s with
        divN := p
        ch := s.ch.set (i - 1)
          { mode := .flash, color := c, low := 0, high := 0, step := 0, value := 0, phase := false } } ∧
    selectFade i lo hi st s = { s with
        ch := s.ch.set (i - 1)
          { mode := .fade, color := 0, low := lo, high := hi, step := st, value := lo, phase := false } }

/-- R125 to R128: without a tick no mode changes; with one, OFF and SOLID hold, and FLASH toggles its phase and shows
its colour in the new phase on. -/
def Obligations.AdvanceByMode : Prop :=
  ∀ c : Channel,
    advance false c = c ∧
    (c.mode = .off → advance true c = c) ∧
    (c.mode = .solid → advance true c = c) ∧
    (c.mode = .flash → advance true c =
      { c with phase := !c.phase, value := if (!c.phase) = true then c.color else 0 })

/-- R129: ADVANCE_FADE over the integers. `ph` is the direction after the correction at a bound (true is falling), `v`
the clamped step; the new value is `v` exactly, and the phase is set by the bound reached, the floor last. -/
def Obligations.FadeStep : Prop :=
  ∀ (c : Channel) (ph : Bool) (v : Int), c.mode = .fade →
    ph = (if c.phase = false ∧ c.high.toNat ≤ c.value.toNat then true
      else if c.phase = true ∧ c.value.toNat ≤ c.low.toNat then false else c.phase) →
    v = min (max (if ph then (c.value.toNat : Int) - c.step.toNat else (c.value.toNat : Int) + c.step.toNat)
      c.low.toNat) c.high.toNat →
    ∃ d, advance true c = d ∧ (d.value.toNat : Int) = v ∧
      d.phase = (if v = c.low.toNat then false else if v = c.high.toNat then true else ph) ∧
      d = { c with value := d.value, phase := d.phase }

/-- R130: POLL, event word 0x200, clears the flag and advances every channel by what it held. -/
def Obligations.PollConsumesAndAdvances : Prop :=
  decodeEvent 0x200 = .ok .poll ∧ ∀ s : State, cfgLegal s.cfg = true →
    exec .poll s = .next
      { s with
        tickFlag := false
        ch := if s.tickFlag then s.ch.map (advance true) else s.ch
        outs := [{ disp := [], err := .none, consumed := s.tickFlag }] }

/-- R131: rounds of as many TIMER_IRQs as the threshold, each followed by any number of POLLs and the round by one,
advance every channel by one tick a round: the result does not depend on where the extra POLLs stand or how many they
are. -/
def Obligations.PollingIntervalIndependence : Prop :=
  ∀ (s : State) (thr : Nat) (rounds : List (List Nat)), cfgLegal s.cfg = true →
    thr = thrEff s.cfg.tickThreshold s.divN → s.tickCnt.toNat < thr → s.tickFlag = false →
    (∀ r ∈ rounds, r.length = thr) →
    ∃ t, execAll
        (rounds.map fun r => (r.map fun m => Instr.irq :: List.replicate m Instr.poll).flatten ++ [Instr.poll]).flatten
        s = .next t ∧
      t = { s with ch := s.ch.map (afterTicks rounds.length), outs := t.outs }

/-- R132: after selecting FLASH(c) and k consumed ticks the phase is k mod 2 and the value is the colour in the odd
case, 0 in the even one. -/
def Obligations.FlashSequence : Prop :=
  ∀ (c : Byte) (k : Nat), afterTicks k (flashChannel c) =
    { flashChannel c with phase := decide (k % 2 = 1), value := if k % 2 = 1 then c else 0 }

/-- A FADE with low ≤ high and its value within them keeps both bounds at every tick, and its value changes by at most
the step (R129, R35 (e)). It never reverses between the bounds: strictly between them a tick moves the value in the
direction the phase holds, and the phase stays unless the tick reaches a bound. -/
def Obligations.FadeNeverLeavesItsBounds : Prop :=
  ∀ (c : Channel) (k : Nat), c.mode = .fade → c.low.toNat ≤ c.value.toNat → c.value.toNat ≤ c.high.toNat →
    (afterTicks k c).low = c.low ∧ (afterTicks k c).high = c.high ∧
    c.low.toNat ≤ (afterTicks k c).value.toNat ∧ (afterTicks k c).value.toNat ≤ c.high.toNat ∧
    (afterTicks (k + 1) c).value.toNat ≤ (afterTicks k c).value.toNat + c.step.toNat ∧
    (afterTicks k c).value.toNat ≤ (afterTicks (k + 1) c).value.toNat + c.step.toNat ∧
    (c.low.toNat < (afterTicks k c).value.toNat → (afterTicks k c).value.toNat < c.high.toNat →
      ((afterTicks k c).phase = false → (afterTicks k c).value.toNat ≤ (afterTicks (k + 1) c).value.toNat) ∧
      ((afterTicks k c).phase = true → (afterTicks (k + 1) c).value.toNat ≤ (afterTicks k c).value.toNat) ∧
      (c.low.toNat < (afterTicks (k + 1) c).value.toNat → (afterTicks (k + 1) c).value.toNat < c.high.toNat →
        (afterTicks (k + 1) c).phase = (afterTicks k c).phase))

/-- R133: the closed form of a fade with a step of at least 1 and `lo ≤ hi`. `lo`, `hi`, `st` are the parameters,
`D = hi - lo`, `q = D div st`. It starts at position `j` of the cycle: at `lo + j·st` rising with `j ≤ q`, or in the
falling run, which begins with `hi` at position `q` when the step divides the span, and at position `q + 1` when it does
not. R133 names the starts rising and at `hi` falling; the starts further down the falling run are positions of the cycle
it lists. -/
def Obligations.FadeClosedForm : Prop :=
  ∀ (c : Channel) (lo hi st q j k : Nat), c.mode = .fade →
    lo = c.low.toNat → hi = c.high.toNat → st = c.step.toNat → 1 ≤ st → lo ≤ hi → q = (hi - lo) / st →
    (hi = lo → c.value.toNat = lo → (afterTicks k c).value.toNat = lo) ∧
    (lo < hi → (hi - lo) % st = 0 →
      (j ≤ q ∧ c.value.toNat = lo + j * st ∧ c.phase = false ∨
        q ≤ j ∧ j < 2 * q ∧ c.value.toNat = lo + (2 * q - j) * st ∧ c.phase = true) →
      (afterTicks k c).value.toNat =
        lo + st * (if (k + j) % (2 * q) ≤ q then (k + j) % (2 * q) else 2 * q - (k + j) % (2 * q))) ∧
    ((hi - lo) % st ≠ 0 →
      (j ≤ q ∧ c.value.toNat = lo + j * st ∧ c.phase = false ∨
        q + 1 ≤ j ∧ j < 2 * (q + 1) ∧ c.value.toNat = hi - (j - (q + 1)) * st ∧ c.phase = true) →
      (afterTicks k c).value.toNat =
        (if (k + j) % (2 * (q + 1)) ≤ q then lo + (k + j) % (2 * (q + 1)) * st
          else hi - ((k + j) % (2 * (q + 1)) - (q + 1)) * st))

/-! ## Local mode selector -/

/-- R134: a repeated code changes nothing. -/
def Obligations.RepeatedLocalCodeChangesNothing : Prop :=
  ∀ (c : BitVec 3) (s : State), cfgLegal s.cfg = true → s.cfg.control = .localTable → s.localCode = c →
    exec (localInstr c) s = .next { s with outs := [.quiet] }

/-- R135: LOCAL 0 turns the three STRIP channels off and touches nothing else but `local_code`. -/
def Obligations.LocalOffTurnsTheStripOff : Prop :=
  decodeEvent 0x400 = .ok .local0 ∧ ∀ s : State, cfgLegal s.cfg = true → s.cfg.control = .localTable →
    s.localCode ≠ 0 →
    exec .local0 s = .next
      { s with
        localCode := 0
        ch := ((s.ch.set (s.cfg.stripR - 1) offChannel).set (s.cfg.stripG - 1) offChannel).set (s.cfg.stripB - 1)
          offChannel
        outs := [.quiet] }

/-- R136 to R139: LOCAL 1 to 4 select SOLID on the three STRIP channels with their row's components, and a tick changes
none of them. -/
def Obligations.LocalSolidColours : Prop :=
  (decodeEvent 0x401 = .ok .local1 ∧ decodeEvent 0x402 = .ok .local2 ∧ decodeEvent 0x403 = .ok .local3 ∧
    decodeEvent 0x404 = .ok .local4) ∧ ∀ s : State, cfgLegal s.cfg = true → s.cfg.control = .localTable →
    let row := fun r g b : Byte =>
      ((s.ch.set (s.cfg.stripR - 1) (solidChannel r)).set (s.cfg.stripG - 1) (solidChannel g)).set
        (s.cfg.stripB - 1) (solidChannel b)
    (s.localCode ≠ 1 → exec .local1 s = .next { s with localCode := 1, ch := row s.cfg.localOn 0 0, outs := [.quiet] }) ∧
    (s.localCode ≠ 2 → exec .local2 s = .next { s with localCode := 2, ch := row 0 s.cfg.localOn 0, outs := [.quiet] }) ∧
    (s.localCode ≠ 3 → exec .local3 s = .next { s with localCode := 3, ch := row 0 0 s.cfg.localOn, outs := [.quiet] }) ∧
    (s.localCode ≠ 4 → exec .local4 s = .next
      { s with localCode := 4, ch := row s.cfg.localOn s.cfg.localOn s.cfg.localOn, outs := [.quiet] }) ∧
    ∀ v : Byte, advance true (solidChannel v) = solidChannel v

/-- R140, R141: LOCAL 5 and 6 select FLASH on the three STRIP channels with their row's colours and write the
divider. -/
def Obligations.LocalFlashColours : Prop :=
  (decodeEvent 0x405 = .ok .local5 ∧ decodeEvent 0x406 = .ok .local6) ∧
  ∀ s : State, cfgLegal s.cfg = true → s.cfg.control = .localTable →
    let row := fun r g b : Byte =>
      ((s.ch.set (s.cfg.stripR - 1) (flashChannel r)).set (s.cfg.stripG - 1) (flashChannel g)).set
        (s.cfg.stripB - 1) (flashChannel b)
    (s.localCode ≠ 5 → exec .local5 s = .next
      { s with localCode := 5, divN := s.cfg.localFlashDiv, ch := row s.cfg.localOn 0 0, outs := [.quiet] }) ∧
    (s.localCode ≠ 6 → exec .local6 s = .next
      { s with localCode := 6, divN := s.cfg.localFlashDiv, ch := row 0 s.cfg.localOn 0, outs := [.quiet] })

/-- R142: LOCAL 7 selects the local FADE on the three STRIP channels, which then stay equal at every tick. -/
def Obligations.LocalFadeKeepsTheStripEqual : Prop :=
  decodeEvent 0x407 = .ok .local7 ∧ ∀ s : State, cfgLegal s.cfg = true → s.cfg.control = .localTable →
    s.localCode ≠ 7 → s.ch.length = s.cfg.nOut →
    ∃ t, exec .local7 s = .next t ∧
      t = { s with
        localCode := 7
        ch := ((s.ch.set (s.cfg.stripR - 1)
            (fadeChannel s.cfg.localFadeLow s.cfg.localFadeHigh s.cfg.localFadeStep)).set (s.cfg.stripG - 1)
            (fadeChannel s.cfg.localFadeLow s.cfg.localFadeHigh s.cfg.localFadeStep)).set (s.cfg.stripB - 1)
            (fadeChannel s.cfg.localFadeLow s.cfg.localFadeHigh s.cfg.localFadeStep)
        outs := [.quiet] } ∧
      ∀ k, ∀ i ∈ [s.cfg.stripR, s.cfg.stripG, s.cfg.stripB],
        ((t.ch.map (afterTicks k))[i - 1]?) =
          some (afterTicks k (fadeChannel s.cfg.localFadeLow s.cfg.localFadeHigh s.cfg.localFadeStep))

/-! ## Command Parser -/

/-- R161: RX in WAIT. START_BYTE opens a frame; any other byte raises the uncounted START error and, with the parser
clear as R35 (b) says it is in WAIT, changes no register. -/
def Obligations.RxInWait : Prop :=
  ∀ (b : Byte) (s : State), cfgLegal s.cfg = true → s.cfg.control = .serial → s.rxState = .wait → parserClear s →
    (b = 0x3C → exec (.rx b) s = .next
      { s with
        rxState := if s.cfg.protocol = .twoField then .commandOrIndex else .size
        outs := [.quiet] }) ∧
    (b ≠ 0x3C → exec (.rx b) s = .next { s with outs := [{ disp := [], err := .frameSyntaxStart, consumed := false }] })

/-- R162: RX in COMMAND_OR_INDEX under TWO_FIELD. -/
def Obligations.RxIndexByte : Prop :=
  ∀ (b : Byte) (s : State), cfgLegal s.cfg = true → s.cfg.control = .serial → s.cfg.protocol = .twoField →
    s.rxState = .commandOrIndex →
    (1 ≤ b.toNat ∧ b.toNat ≤ s.cfg.nOut → exec (.rx b) s = .next
      { s with rxCmd := b, rxSize := 1, rxCount := 0, rxState := .data, outs := [.quiet] }) ∧
    (b = 0 ∨ s.cfg.nOut < b.toNat → exec (.rx b) s = .next
      { s with
        rxState := .wait, rxSize := 0, rxCmd := 0, rxCount := 0, rxBuf := []
        errCount := if s.cfg.countRangeErrors then s.errCount + 1 else s.errCount
        outs := [{ disp := [], err := .fieldRange b, consumed := false }] })

/-- R164: RX in SIZE under MULTI_FIELD. -/
def Obligations.RxSizeByte : Prop :=
  ∀ (b : Byte) (s : State), cfgLegal s.cfg = true → s.cfg.control = .serial → s.cfg.protocol = .multiField →
    s.rxState = .size →
    (b.toNat < s.cfg.rxMax → exec (.rx b) s = .next
      { s with rxSize := b, rxState := .commandOrIndex, outs := [.quiet] }) ∧
    (s.cfg.rxMax ≤ b.toNat → exec (.rx b) s = .next
      { s with
        rxState := .wait, rxSize := 0, rxCmd := 0, rxCount := 0, rxBuf := []
        errCount := if s.cfg.countRangeErrors then s.errCount + 1 else s.errCount
        outs := [{ disp := [], err := .bufferOverflow b, consumed := false }] })

/-- R165: RX in COMMAND_OR_INDEX under MULTI_FIELD, with the payload sizes of R205. -/
def Obligations.RxCommandByte : Prop :=
  ∀ (b : Byte) (s : State), cfgLegal s.cfg = true → s.cfg.control = .serial → s.cfg.protocol = .multiField →
    s.rxState = .commandOrIndex →
    (let accepted := b = s.cfg.cmdInit ∧ s.rxSize.toNat = 0 ∨ b = s.cfg.cmdFade ∧ s.rxSize.toNat = 4 ∨
      b = s.cfg.cmdSetVal ∧ s.rxSize.toNat = 2 ∨ b = s.cfg.cmdSetValAll ∧ s.rxSize.toNat = s.cfg.nOut
    (accepted → exec (.rx b) s = .next
      { s with rxCmd := b, rxState := if s.rxSize = 0 then .validate else .data, outs := [.quiet] }) ∧
    (¬accepted → exec (.rx b) s = .next
      { s with
        rxState := .wait, rxSize := 0, rxCmd := 0, rxCount := 0, rxBuf := []
        errCount := if s.cfg.countRangeErrors then s.errCount + 1 else s.errCount
        outs := [{ disp := [], err := .fieldRange b, consumed := false }] }))

/-- R166, R169: RX in DATA. A reserved byte, or one the field validator of R168 rejects, is a FieldRangeError. An
accepted byte is stored at `rx_buf[rx_count]`, every other byte of the buffer reads as before, and the last one of the
declared size moves to VALIDATE; this for a count inside the buffer, as R166 says it always is, and a count whose
successor is a u8. -/
def Obligations.RxDataByte : Prop :=
  ∀ (b : Byte) (s : State), cfgLegal s.cfg = true → s.cfg.control = .serial → s.rxState = .data →
    (let reserved := s.cfg.reservedPolicy = .reject ∧ (b = 0x3C ∨ b = 0x3E)
    let valid := fieldValid s.cfg s.rxCmd s.rxBuf s.rxCount.toNat b
    (reserved ∨ valid = false → exec (.rx b) s = .next
      { s with
        rxState := .wait, rxSize := 0, rxCmd := 0, rxCount := 0, rxBuf := []
        errCount := if s.cfg.countRangeErrors then s.errCount + 1 else s.errCount
        outs := [{ disp := [], err := .fieldRange b, consumed := false }] }) ∧
    (¬reserved → valid = true → s.rxCount.toNat < s.cfg.rxMax → s.rxCount.toNat < 255 →
      Memory.wf s.cfg.rxMax s.rxBuf = true → ∃ t, exec (.rx b) s = .next t ∧
      t = { s with
        rxBuf := t.rxBuf
        rxCount := s.rxCount + 1
        rxState := if s.rxCount + 1 = s.rxSize then .validate else .data
        outs := [.quiet] } ∧
      memRead t.rxBuf s.rxCount.toNat = b ∧
      ∀ k, k ≠ s.rxCount.toNat → memRead t.rxBuf k = memRead s.rxBuf k))

/-- R168: the field validator at every position the byte count reaches, under every legal configuration: only FADE's
third byte asks for a buffer of two bytes, those it reads. -/
def Obligations.FieldValidatorTable : Prop :=
  ∀ (cfg : Cfg) (m : Memory) (cmd b : Byte) (k : Nat), cfgLegal cfg = true →
    (cfg.protocol = .twoField → fieldValid cfg cmd m 0 b = dom cfg cmd b) ∧
    (cfg.protocol = .multiField →
      fieldValid cfg cfg.cmdSetVal m 0 b = decide (1 ≤ b.toNat ∧ b.toNat ≤ cfg.nOut) ∧
      fieldValid cfg cfg.cmdSetVal m 1 b = dom cfg (memRead m 0) b ∧
      fieldValid cfg cfg.cmdFade m 0 b = decide (1 ≤ b.toNat ∧ b.toNat ≤ cfg.nOut) ∧
      fieldValid cfg cfg.cmdFade m 1 b = dom cfg (memRead m 0) b ∧
      (2 ≤ cfg.rxMax → fieldValid cfg cfg.cmdFade m 2 b =
        (dom cfg (memRead m 0) b && decide ((memRead m 1).toNat ≤ b.toNat))) ∧
      fieldValid cfg cfg.cmdFade m 3 b = true ∧
      (k < cfg.nOut → fieldValid cfg cfg.cmdSetValAll m k b = dom cfg (BitVec.ofNat 8 (k + 1)) b))

/-- R203: the domain test, for an index that names an output. -/
def Obligations.DomainTest : Prop :=
  ∀ (cfg : Cfg) (i v : Byte), cfgLegal cfg = true → 1 ≤ i.toNat → i.toNat ≤ cfg.nOut →
    (cfg.domain[i.toNat - 1]? = some .bool → (dom cfg i v = true ↔ v = 0 ∨ v = 1)) ∧
    (cfg.domain[i.toNat - 1]? = some .byte → dom cfg i v = true) ∧
    (cfg.domain[i.toNat - 1]? = some .bool ∨ cfg.domain[i.toNat - 1]? = some .byte)

/-- R167: RX in VALIDATE. A wrong terminator is a counted FrameSyntaxError; END_BYTE runs the dispatch of R201 and then
returns to WAIT with every parser field clear, in the same step. -/
def Obligations.RxInValidate : Prop :=
  ∀ (b : Byte) (s : State), cfgLegal s.cfg = true → s.cfg.control = .serial → s.rxState = .validate →
    (b ≠ 0x3E → exec (.rx b) s = .next
      { s with
        rxState := .wait, rxSize := 0, rxCmd := 0, rxCount := 0, rxBuf := []
        errCount := s.errCount + 1
        outs := [{ disp := [], err := .frameSyntax b, consumed := false }] }) ∧
    (b = 0x3E → exec (.rx b) s = .next
      { (dispatch s .quiet).1 with
        rxState := .wait, rxSize := 0, rxCmd := 0, rxCount := 0, rxBuf := []
        outs := [(dispatch s .quiet).2] })

/-- Every RX in one of the five parser states completes with one output record and refuses nothing, from a hand-built
state as well (R160, I20); and it keeps `BlockInv`, which is R35 with what the parser has checked, and R35 (c) under
MULTI_FIELD only (log entry 13). -/
def Obligations.RxAlwaysCompletes : Prop :=
  ∀ (b : Byte) (s : State), cfgLegal s.cfg = true → s.cfg.control = .serial →
    s.rxState ≠ .unused5 → s.rxState ≠ .unused6 → s.rxState ≠ .unused7 →
    ∃ t o, exec (.rx b) s = .next t ∧ t.outs = [o] ∧ t.refused = s.refused ∧ t.cfg = s.cfg ∧ (BlockInv s → BlockInv t)

/-- R163: only a frame that R73 and R74 admit, with every field valid, dispatches. Whatever bytes come from WAIT on, a
dispatch means that the byte that dispatched is the last of a well-formed frame, whose bytes came one after the other
from a point where the parser was in WAIT; so every other byte sequence dispatches nothing. -/
def Obligations.OnlyValidFramesDispatch : Prop :=
  ∀ (bytes : List Byte) (b : Byte) (s t : State), cfgLegal s.cfg = true → s.cfg.control = .serial →
    s.rxState = .wait → parserClear s → receiveFrame (bytes ++ [b]) s = .next t →
    (∃ o ∈ t.outs.getLast?, o.disp ≠ []) →
    t.rxState = .wait ∧ ∃ (before front : List Byte) (i : Instr) (u : State),
      bytes = before ++ front ∧ encode s.cfg i = .frame (front ++ [b]) ∧ i.wellFormed s.cfg = true ∧
      receiveFrame before s = .next u ∧ u.rxState = .wait

/-- R171: nothing but RX (alone or in a frame) and RESET changes the parser's registers, so a half-received frame
persists over any sequence of other events. -/
def Obligations.HalfReceivedFramePersists : Prop :=
  ∀ (is : List Instr) (s t : State), (∀ i ∈ is, isSerial i = false ∧ i ≠ .reset) → execAll is s = .next t →
    t.rxState = s.rxState ∧ t.rxSize = s.rxSize ∧ t.rxCmd = s.rxCmd ∧ t.rxCount = s.rxCount ∧ t.rxBuf = s.rxBuf

/-- R172: a frame whose bytes before the terminator are all valid, with another byte where END_BYTE belongs, dispatches
nothing, changes no register but the error counter, and raises that by exactly one modulo 256. -/
def Obligations.MissingTerminatorCountsOnce : Prop :=
  ∀ (i : Instr) (bytes : List Byte) (b : Byte) (s : State), cfgLegal s.cfg = true → s.cfg.control = .serial →
    s.rxState = .wait → parserClear s → i.wellFormed s.cfg = true → encode s.cfg i = .frame bytes → b ≠ 0x3E →
    receiveFrame (bytes.dropLast ++ [b]) s = .next
      { s with
        errCount := s.errCount + 1
        outs := List.replicate (bytes.length - 1) .quiet ++
          [{ disp := [], err := .frameSyntax b, consumed := false }] }

/-- R258: with three outputs and a buffer of eight bytes, sending END_BYTE RX_MAX + 2 times ends any pending frame of a
state of `BlockInv`, and at most one frame is dispatched or counted in all. The ten RX events one by one leave what the
burst of ten leaves, whose output records (one for each) tell the dispatches. -/
def Obligations.EndBytesResynchronise : Prop :=
  ∀ s : State, BlockInv s → s.cfg.control = .serial → s.cfg.nOut = 3 → s.cfg.rxMax = 8 →
    ∃ t, receiveFrame (List.replicate 10 0x3E) s = .next t ∧
      (∃ u, execAll (List.replicate 10 (.rx 0x3E)) s = .next u ∧ t = { u with outs := t.outs }) ∧
      t.rxState = .wait ∧ t.outs.length = 10 ∧
      (t.outs.countP (fun o => decide (o.disp ≠ [])) = 0 ∧ (t.errCount = s.errCount ∨ t.errCount = s.errCount + 1) ∨
        t.outs.countP (fun o => decide (o.disp ≠ [])) = 1 ∧ t.errCount = s.errCount)

/-! ## Output Assignment and the frame commands -/

/-- R200, R224: setOutput selects SOLID(v) on output i and emits one record; with an index or value outside its domain
it changes no state, emits nothing and signals OUTPUT_INVALID. -/
def Obligations.SetOutputContract : Prop :=
  ∀ (i v : Byte) (s : State) (o : StepOut),
    ((1 ≤ i.toNat ∧ i.toNat ≤ s.cfg.nOut) ∧ dom s.cfg i v = true → setOutput i v s o =
      ({ s with
        ch := s.ch.set (i.toNat - 1)
          { mode := .solid, color := v, low := 0, high := 0, step := 0, value := v, phase := false } },
        { o with disp := o.disp ++ [.setOutput i v] })) ∧
    (¬((1 ≤ i.toNat ∧ i.toNat ≤ s.cfg.nOut) ∧ dom s.cfg i v = true) →
      setOutput i v s o = (s, { o with err := .outputInvalid i v }))

/-- R202: the two-field set frame, received whole in WAIT: output INDEX is SOLID(VALUE), one dispatch record at the
END byte, every other register as it was. -/
def Obligations.Frame2SetsTheOutput : Prop :=
  ∀ (i v : Byte) (s : State), cfgLegal s.cfg = true → s.cfg.control = .serial → s.cfg.protocol = .twoField →
    s.rxState = .wait → parserClear s → 1 ≤ i.toNat → i.toNat ≤ s.cfg.nOut → dom s.cfg i v = true →
    (s.cfg.reservedPolicy = .reject → v ≠ 0x3C ∧ v ≠ 0x3E) →
    encode s.cfg (.frame2 i v) = .frame [0x3C, i, v, 0x3E] ∧
    exec (.frame2 i v) s = .next
      { s with
        ch := s.ch.set (i.toNat - 1) (solidChannel v)
        outs := [.quiet, .quiet, .quiet, { disp := [.setOutput i v], err := .none, consumed := false }] }

/-- R206: INIT turns every output OFF and restores the default tick period. -/
def Obligations.InitTurnsEveryOutputOff : Prop :=
  ∀ s : State, cfgLegal s.cfg = true → s.cfg.control = .serial → s.cfg.protocol = .multiField →
    s.rxState = .wait → parserClear s → s.ch.length = s.cfg.nOut →
    encode s.cfg .init = .frame [0x3C, 0x00, s.cfg.cmdInit, 0x3E] ∧
    exec .init s = .next
      { s with
        ch := List.replicate s.cfg.nOut offChannel
        divN := 0
        outs := [.quiet, .quiet, .quiet, { disp := [.init], err := .none, consumed := false }] }

/-- R207: FADE puts output i in FADE(lo, hi, st) at its floor, rising. -/
def Obligations.FadeFrameSelectsTheFade : Prop :=
  ∀ (i lo hi st : Byte) (s : State), cfgLegal s.cfg = true → s.cfg.control = .serial →
    s.cfg.protocol = .multiField → s.rxState = .wait → parserClear s →
    (Instr.fade i lo hi st).wellFormed s.cfg = true →
    encode s.cfg (.fade i lo hi st) = .frame [0x3C, 0x04, s.cfg.cmdFade, i, lo, hi, st, 0x3E] ∧
    exec (.fade i lo hi st) s = .next
      { s with
        ch := s.ch.set (i.toNat - 1) (fadeChannel lo hi st)
        outs := List.replicate 7 .quiet ++ [{ disp := [.fade i lo hi st], err := .none, consumed := false }] }

/-- R208: SET_VAL has the effect of the two-field set. -/
def Obligations.SetValSetsTheOutput : Prop :=
  ∀ (i v : Byte) (s : State), cfgLegal s.cfg = true → s.cfg.control = .serial → s.cfg.protocol = .multiField →
    s.rxState = .wait → parserClear s → (Instr.setval i v).wellFormed s.cfg = true →
    encode s.cfg (.setval i v) = .frame [0x3C, 0x02, s.cfg.cmdSetVal, i, v, 0x3E] ∧
    exec (.setval i v) s = .next
      { s with
        ch := s.ch.set (i.toNat - 1) (solidChannel v)
        outs := List.replicate 5 .quiet ++ [{ disp := [.setOutput i v], err := .none, consumed := false }] }

/-- R209: SET_VAL_ALL sets every output, for any number of outputs the buffer holds, with one record per output in
index order. -/
def Obligations.SetAllSetsEveryOutput : Prop :=
  ∀ (vs : List Byte) (s : State), cfgLegal s.cfg = true → s.cfg.control = .serial → s.cfg.protocol = .multiField →
    s.rxState = .wait → parserClear s → s.ch.length = s.cfg.nOut → (Instr.setall vs).wellFormed s.cfg = true →
    encode s.cfg (.setall vs) =
      .frame ([0x3C, BitVec.ofNat 8 s.cfg.nOut, s.cfg.cmdSetValAll] ++ vs ++ [0x3E]) ∧
    exec (.setall vs) s = .next
      { s with
        ch := vs.map solidChannel
        outs := List.replicate (s.cfg.nOut + 3) .quiet ++
          [{ disp := vs.mapIdx fun k v => .setOutput (BitVec.ofNat 8 (k + 1)) v, err := .none, consumed := false }] }

/-! ## Errors and the whole machine -/

/-- R222, R223: an RX step that raises one of the three parser errors clears the parser, counts as R223 says, and
changes nothing else; it dispatches nothing. An OUTPUT_INVALID changes no state, and its step does not count it. -/
def Obligations.ParserErrorsRecoverToWait : Prop :=
  (∀ (b : Byte) (s t : State) (o : StepOut), exec (.rx b) s = .next t → t.outs = [o] →
    (o.err = .frameSyntaxStart ∨ o.err = .frameSyntax b ∨ o.err = .fieldRange b ∨ o.err = .bufferOverflow b) →
    o.disp = [] ∧
    t = { s with
      rxState := .wait, rxSize := 0, rxCmd := 0, rxCount := 0, rxBuf := []
      errCount :=
        if o.err = .frameSyntax b ∨ (o.err = .fieldRange b ∨ o.err = .bufferOverflow b) ∧ s.cfg.countRangeErrors = true
        then s.errCount + 1 else s.errCount
      outs := [o] }) ∧
  (∀ (i v : Byte) (s u : State) (o p : StepOut), setOutput i v s o = (u, p) → o.err = .none → p.err ≠ .none →
    p.err = .outputInvalid i v ∧ u = s) ∧
  ∀ (b i v : Byte) (s t : State), exec (.rx b) s = .next t → (∃ o ∈ t.outs, o.err = .outputInvalid i v) →
    t.errCount = s.errCount

/-- R225: dispatch happens only at an accepted END_BYTE, and only there does an RX touch a channel or the divider. -/
def Obligations.OnlyTheEndByteDispatches : Prop :=
  ∀ (b : Byte) (s t : State), exec (.rx b) s = .next t →
    (dispatched t ∨ t.ch ≠ s.ch ∨ t.divN ≠ s.divN) → s.rxState = .validate ∧ b = 0x3E ∧ t.rxState = .wait

/-- R37: which instructions write which register. -/
def Obligations.WriteAccessByEvent : Prop :=
  ∀ (i : Instr) (s t : State), exec i s = .next t →
    (t.tickCnt ≠ s.tickCnt → i = .irq ∨ i = .reset) ∧
    (t.tickFlag ≠ s.tickFlag → i = .irq ∧ t.tickFlag = true ∨ (i = .poll ∨ i = .reset) ∧ t.tickFlag = false) ∧
    (t.divN ≠ s.divN → (∃ n, i = .setdiv n) ∨ i = .local5 ∨ i = .local6 ∨ initDispatched t ∨ i = .reset) ∧
    (t.ch ≠ s.ch → i = .poll ∨ (∃ c, i = localInstr c) ∨ dispatched t ∨ i = .reset) ∧
    (t.localCode ≠ s.localCode → (∃ c, i = localInstr c) ∨ i = .reset) ∧
    ((t.rxState ≠ s.rxState ∨ t.rxSize ≠ s.rxSize ∨ t.rxCmd ≠ s.rxCmd ∨ t.rxCount ≠ s.rxCount ∨ t.rxBuf ≠ s.rxBuf ∨
      t.errCount ≠ s.errCount) → isSerial i = true ∨ i = .reset)

/-- `BlockInv` holds in the state RESET leaves, under every well-formed configuration. It is R35 with what the parser has
checked, and asks for `rx_size < RX_MAX` under MULTI_FIELD only (log entry 13). -/
def Obligations.ResetStateSatisfiesTheInvariant : Prop :=
  ∀ cfg : Cfg, cfgLegal cfg = true → BlockInv (State.resetOf cfg)

/-- Every step from a state of `BlockInv` leaves one, whatever the environment supplies. `BlockInv` is R35 with what the
parser has checked so far, and asks for `rx_size < RX_MAX` under MULTI_FIELD only: R35 (c) as written is not kept under
TWO_FIELD with RX_MAX = 1 (log entry 13). -/
def Obligations.EveryStepKeepsTheInvariant : Prop :=
  ∀ s t : State, BlockInv s → step s = .next t → BlockInv t

/-- R226, R12: the block has no fault, and every event has a next state. Every instruction and every step, whatever the
environment supplies, answers a next state from every state, hand-built ones included (R251, I20). -/
def Obligations.NoStepFaults : Prop :=
  (∀ (i : Instr) (s : State), ∃ t, exec i s = .next t) ∧ ∀ s : State, ∃ t, step s = .next t

/-- Every state that a run from reset reaches under a well-formed configuration shows on every port `duty[i]` a value of
that output's domain (R29), whatever events come in whatever order (R58). -/
def Obligations.DutyStaysInItsDomain : Prop :=
  ∀ (cfg : Cfg) (s : State), cfgLegal cfg = true → Reachable cfg s →
    s.cfg = cfg ∧ ∀ (i : Nat) (d : Domain), 1 ≤ i → cfg.domain[i - 1]? = some d →
      ∃ v, dutyPort s i = some v ∧ inDomain d v = true
end

