-- ==== Sys2Proof/Laws/Effects.lean ====
section
/-! SUPPORT. The advance of a channel: what a tick leaves, the range of a fade's value, and that a good channel stays
good. -/

namespace Sys2Proof.Machine

/-- Without a tick an advance is the identity (R125). -/
theorem advance_false : advance false = id := by
  funext c
  simp [advance]

/-- One more consumed tick. -/
theorem afterTicks_succ (k : Nat) (c : Channel) : afterTicks (k + 1) c = advance true (afterTicks k c) := by
  unfold afterTicks
  exact Function.iterate_succ_apply' _ _ _

/-- The stepped value of a fade never leaves the bytes, whatever the channel holds (R129). -/
theorem fadeValue_range (c : Channel) :
    0 ≤ fadeValue c ∧ fadeValue c ≤ c.high.toNat ∧ (c.low.toNat ≤ c.high.toNat → (c.low.toNat : Int) ≤ fadeValue c) := by
  unfold fadeValue clamp
  split <;> omega

/-- The stored value of a fade is the stepped one, with no wrap (R129). -/
theorem advanceFade_value (c : Channel) : ((advanceFade c).value.toNat : Int) = fadeValue c := by
  have h := fadeValue_range c
  have := c.high.isLt
  simp only [advanceFade, BitVec.toNat_ofInt]
  omega

/-- A consumed tick of a FADE channel over the naturals: the parameters stay, the value moves by the step inside the
bounds, and the phase follows the bound reached (R129). -/
theorem advance_fade (c : Channel) (hm : c.mode = .fade) (h : c.low.toNat ≤ c.high.toNat) :
    (advance true c).mode = .fade ∧ (advance true c).low = c.low ∧ (advance true c).high = c.high ∧
      (advance true c).step = c.step ∧
      (fadeDirection c = false → (advance true c).value.toNat =
        max c.low.toNat (min c.high.toNat (c.value.toNat + c.step.toNat))) ∧
      (fadeDirection c = true → (advance true c).value.toNat =
        min c.high.toNat (max c.low.toNat (c.value.toNat - c.step.toNat))) ∧
      (advance true c).phase =
        (if (advance true c).value.toNat = c.low.toNat then false
          else if (advance true c).value.toNat = c.high.toNat then true else fadeDirection c) := by
  have e : advance true c = advanceFade c := by simp [advance, hm]
  have hv := advanceFade_value c
  rw [e]
  refine ⟨hm, rfl, rfl, rfl, fun hd => ?_, fun hd => ?_, ?_⟩
  · unfold fadeValue clamp at hv
    rw [hd] at hv
    simp only [Bool.false_eq_true, if_false] at hv
    omega
  · unfold fadeValue clamp at hv
    rw [hd] at hv
    simp only [if_true] at hv
    omega
  · show fadePhase c = _
    unfold fadePhase
    rw [← hv]
    simp only [Nat.cast_inj]

theorem inDomain_zero (d : Domain) : inDomain d 0 = true := by cases d <;> rfl

/-- A domain holds every byte below one it holds (R203). -/
theorem inDomain_of_le (d : Domain) (a b : Byte) (h : a.toNat ≤ b.toNat) (hb : inDomain d b = true) :
    inDomain d a = true := by
  cases d <;> simp [inDomain] at *
  omega

theorem channelGood_off (d : Domain) : channelGood d offChannel := ⟨inDomain_zero d, rfl⟩

theorem channelGood_solid (d : Domain) (c : Byte) (h : inDomain d c = true) : channelGood d (solidChannel c) := ⟨h, rfl⟩

theorem channelGood_flash (d : Domain) (c : Byte) (h : inDomain d c = true) : channelGood d (flashChannel c) :=
  ⟨inDomain_zero d, rfl, rfl, rfl, h, rfl⟩

theorem channelGood_fade (d : Domain) (lo hi st : Byte) (h : inDomain d hi = true) (hl : lo.toNat ≤ hi.toNat) :
    channelGood d (fadeChannel lo hi st) :=
  ⟨inDomain_of_le d _ _ hl h, rfl, h, Nat.le_refl _, hl⟩

/-- An advance keeps a channel good (R35 (d) to (h)). -/
theorem channelGood_advance (d : Domain) (c : Channel) (t : Bool) (h : channelGood d c) :
    channelGood d (advance t c) := by
  cases t
  · exact h
  unfold channelGood at h
  obtain ⟨hv, h⟩ := h
  cases hm : c.mode <;> rw [hm] at h <;> simp only at h
  · have e : advance true c = c := by simp [advance, hm]
    rw [e, h]
    exact channelGood_off d
  · have e : advance true c = c := by simp [advance, hm]
    have hc : inDomain d c.color = true := by rw [h] at hv; exact hv
    rw [e, h]
    exact channelGood_solid d _ hc
  · have e : advance true c = advanceFlash c := by simp [advance, hm]
    obtain ⟨h1, h2, h3, h4, -⟩ := h
    rw [e]
    refine ⟨?_, ?_⟩
    · simp only [advanceFlash]
      split
      · exact inDomain_zero d
      · exact h4
    · simp only [advanceFlash, hm]
      refine ⟨h1, h2, h3, h4, ?_⟩
      cases c.phase <;> rfl
  · obtain ⟨h1, h2, h3, h4⟩ := h
    obtain ⟨b1, b2, b3, -, b5, b6, -⟩ := advance_fade c hm (by omega)
    have hb : c.low.toNat ≤ (advance true c).value.toNat ∧ (advance true c).value.toNat ≤ c.high.toNat := by
      cases hd : fadeDirection c
      · have := b5 hd; omega
      · have := b6 hd; omega
    refine ⟨inDomain_of_le d _ _ hb.2 h2, ?_⟩
    rw [b1]
    simp only
    rw [b2, b3]
    refine ⟨?_, h2, hb⟩
    simp [advance, hm, advanceFade, h1]

/-- The write of a good channel keeps a good channel file. -/
theorem channelsGood_setChannel (s : State) (i : Nat) (c : Channel) (h : channelsGood s)
    (hc : ∀ d, s.cfg.domain[i - 1]? = some d → channelGood d c) : channelsGood (setChannel i c s) := by
  refine ⟨by simpa [setChannel] using h.1, fun k d c' hd hk => ?_⟩
  simp only [setChannel, List.getElem?_set] at hk
  split at hk
  · rename_i he
    split at hk
    · cases hk
      subst he
      exact hc d hd
    · cases hk
  · exact h.2 k d c' hd hk

/-- A channel file of OFF channels, one for each output, is good. -/
theorem channelsGood_of_off (s : State) (h : s.ch = List.replicate s.cfg.nOut offChannel) : channelsGood s := by
  refine ⟨by simp [h], fun k d c _ hk => ?_⟩
  rw [h, List.getElem?_replicate] at hk
  split at hk
  · cases hk
    exact channelGood_off d
  · cases hk

end Sys2Proof.Machine
end

