-- ==== Sys2Proof/Laws/Encoding.lean ====
section
/-! SUPPORT. The two fields of an event word, the command codes, and a frame's bytes: what the decoder reads from what
the encoder writes. -/

namespace Sys2Proof

open Sys2Proof.Machine

@[simp] theorem tagOf_eventWord (t : BitVec 4) (p : Byte) : tagOf (eventWord t p) = t := by
  unfold tagOf eventWord
  apply BitVec.eq_of_toNat_eq
  have := p.isLt
  have := t.isLt
  simp only [BitVec.extractLsb'_toNat, BitVec.toNat_append]
  rw [Nat.shiftLeft_eq, Nat.shiftRight_eq_div_pow, Nat.mul_comm, ← Nat.two_pow_add_eq_or_of_lt (by omega)]
  omega

@[simp] theorem payloadOf_eventWord (t : BitVec 4) (p : Byte) : payloadOf (eventWord t p) = p := by
  unfold payloadOf eventWord
  apply BitVec.eq_of_toNat_eq
  have := p.isLt
  have := t.isLt
  simp only [BitVec.extractLsb'_toNat, BitVec.toNat_append]
  rw [Nat.shiftLeft_eq, Nat.shiftRight_eq_div_pow, Nat.mul_comm, ← Nat.two_pow_add_eq_or_of_lt (by omega)]
  omega

/-- A word is its tag and its payload. -/
theorem eventWord_eta (w : EventWord) : eventWord (tagOf w) (payloadOf w) = w := by
  revert w
  decide

/-- Under distinct codes (R8 (d)) each code selects its own command (R204). -/
theorem commandOf_codeOf {c : Cfg} (h : [c.cmdInit, c.cmdFade, c.cmdSetVal, c.cmdSetValAll].Nodup) (k : Command) :
    commandOf c (codeOf c k) = some k := by
  simp only [List.nodup_cons, List.mem_cons, List.not_mem_nil, or_false, not_or] at h
  obtain ⟨⟨h1, h2, h3⟩, ⟨h4, h5⟩, h6, -⟩ := h
  cases k <;> simp [commandOf, codeOf, Ne.symm h1, Ne.symm h2, Ne.symm h3, Ne.symm h4, Ne.symm h5, Ne.symm h6]

/-- A byte that selects a command is its code (R204). -/
theorem codeOf_of_commandOf {cfg : Cfg} {c : Byte} {k : Command} (h : commandOf cfg c = some k) : c = codeOf cfg k := by
  unfold commandOf at h
  repeat' split at h
  all_goals (cases h <;> assumption)

/-- The multi-field decoder finds the command byte and the payload that the encoder wrote (R74, R75). -/
theorem decodeMultiField_bytes (cfg : Cfg) (c : Byte) (d : List Byte) (hl : d.length < 256) :
    decodeMultiField cfg (multiFieldBytes c d) = decodeCommand cfg c d := by
  unfold multiFieldBytes decodeMultiField
  simp [Nat.mod_eq_of_lt hl]

end Sys2Proof
end

