-- ==== Sys2Proof/Laws/Memory.lean ====
section
/-! SUPPORT. The payload buffer: a read after a write, and that a write keeps the canonical form. -/

namespace Sys2Proof.Machine

/-- An index below every listed one reads 0. -/
theorem memRead_below (size : Nat) (m : Memory) (start a : Nat) (h : memWfFrom size start m = true) (ha : a < start) :
    memRead m a = 0 := by
  induction m generalizing start with
  | nil => rfl
  | cons p m ih =>
    obtain ⟨k, v⟩ := p
    simp only [memWfFrom, Bool.and_eq_true, decide_eq_true_eq] at h
    have hne : a ≠ k := by omega
    simp only [memRead, hne, if_false]
    exact ih (k + 1) h.2 (by omega)

theorem memRead_memWrite_same (m : Memory) (a : Nat) (b : Byte) (start size : Nat)
    (h : memWfFrom size start m = true) : memRead (memWrite m a b) a = b := by
  induction m generalizing start with
  | nil => simp only [memWrite]; split <;> simp_all [memRead]
  | cons p m ih =>
    obtain ⟨k, v⟩ := p
    simp only [memWfFrom, Bool.and_eq_true, decide_eq_true_eq] at h
    obtain ⟨⟨_, _, _⟩, hm⟩ := h
    simp only [memWrite]
    split
    · rename_i hak
      have hne : a ≠ k := by omega
      split
      · rename_i hb
        simp only [memRead, hne, if_false, hb]
        exact memRead_below size m (k + 1) a hm (by omega)
      · simp [memRead]
    · split
      · subst_vars
        split
        · rename_i hb
          rw [hb]; exact memRead_below size m (k + 1) k hm (by omega)
        · simp [memRead]
      · rename_i hne
        simp only [memRead, hne, if_false]
        exact ih (k + 1) hm

theorem memRead_memWrite_other (m : Memory) (a c : Nat) (b : Byte) (hc : c ≠ a) (start size : Nat)
    (h : memWfFrom size start m = true) : memRead (memWrite m a b) c = memRead m c := by
  induction m generalizing start with
  | nil => simp only [memWrite]; split <;> simp [memRead, hc]
  | cons p m ih =>
    obtain ⟨k, v⟩ := p
    simp only [memWfFrom, Bool.and_eq_true, decide_eq_true_eq] at h
    simp only [memWrite]
    split
    · split <;> simp [memRead, hc]
    · split
      · rename_i hak
        subst hak
        split
        · simp [memRead, hc]
        · simp [memRead, hc]
      · simp only [memRead]
        split
        · rfl
        · exact ih (k + 1) h.2

theorem memWfFrom_memWrite (size : Nat) (m : Memory) (start a : Nat) (b : Byte) (h : memWfFrom size start m = true)
    (hs : start ≤ a) (ha : a < size) : memWfFrom size start (memWrite m a b) = true := by
  induction m generalizing start with
  | nil => simp only [memWrite]; split <;> simp_all [memWfFrom]
  | cons p m ih =>
    obtain ⟨k, v⟩ := p
    simp only [memWfFrom, Bool.and_eq_true, decide_eq_true_eq] at h
    obtain ⟨⟨h1, h2, h3⟩, hm⟩ := h
    simp only [memWrite]
    split
    · split
      · simp only [memWfFrom, Bool.and_eq_true, decide_eq_true_eq]
        exact ⟨⟨h1, h2, h3⟩, hm⟩
      · rename_i hak hb
        simp only [memWfFrom, Bool.and_eq_true, decide_eq_true_eq]
        exact ⟨⟨hs, ha, hb⟩, ⟨by omega, h2, h3⟩, hm⟩
    · split
      · rename_i hak
        subst hak
        split
        · clear ih
          cases m with
          | nil => rfl
          | cons q m =>
            obtain ⟨k', v'⟩ := q
            simp only [memWfFrom, Bool.and_eq_true, decide_eq_true_eq] at hm ⊢
            exact ⟨⟨by omega, hm.1.2⟩, hm.2⟩
        · rename_i hb
          simp only [memWfFrom, Bool.and_eq_true, decide_eq_true_eq]
          exact ⟨⟨hs, ha, hb⟩, hm⟩
      · rename_i h4 h5
        simp only [memWfFrom, Bool.and_eq_true, decide_eq_true_eq]
        exact ⟨⟨h1, h2, h3⟩, ih (k + 1) hm (by omega)⟩

/-- A write inside the buffer keeps the canonical form. -/
theorem Memory.wf_memWrite (size : Nat) (m : Memory) (a : Nat) (b : Byte) (h : Memory.wf size m = true) (ha : a < size) :
    Memory.wf size (memWrite m a b) = true :=
  memWfFrom_memWrite size m 0 a b h (Nat.zero_le a) ha

/-- The buffer after reset has the canonical form. -/
theorem Memory.wf_nil (size : Nat) : Memory.wf size [] = true := rfl

/-- The written byte reads back. -/
theorem Memory.read_write_same (size : Nat) (m : Memory) (a : Nat) (b : Byte) (h : Memory.wf size m = true) :
    memRead (memWrite m a b) a = b :=
  memRead_memWrite_same m a b 0 size h

/-- Every other byte reads as before. -/
theorem Memory.read_write_other (size : Nat) (m : Memory) (a c : Nat) (b : Byte) (h : Memory.wf size m = true)
    (hc : c ≠ a) : memRead (memWrite m a b) c = memRead m c :=
  memRead_memWrite_other m a c b hc 0 size h

/-- Two buffers in canonical form that read alike are equal. -/
theorem memWfFrom_ext (size : Nat) (m n : Memory) (start : Nat) (hm : memWfFrom size start m = true)
    (hn : memWfFrom size start n = true) (h : ∀ k, memRead m k = memRead n k) : m = n := by
  induction m generalizing n start with
  | nil =>
    cases n with
    | nil => rfl
    | cons q n =>
      obtain ⟨k, v⟩ := q
      simp only [memWfFrom, Bool.and_eq_true, decide_eq_true_eq] at hn
      have := h k
      simp only [memRead, if_true] at this
      exact absurd this.symm hn.1.2.2
  | cons p m ih =>
    obtain ⟨k, v⟩ := p
    simp only [memWfFrom, Bool.and_eq_true, decide_eq_true_eq] at hm
    cases n with
    | nil =>
      have := h k
      simp only [memRead, if_true] at this
      exact absurd this hm.1.2.2
    | cons q n =>
      obtain ⟨k', v'⟩ := q
      simp only [memWfFrom, Bool.and_eq_true, decide_eq_true_eq] at hn
      have hk : k = k' := by
        rcases Nat.lt_trichotomy k k' with hlt | heq | hlt
        · have := h k
          have hne : k ≠ k' := by omega
          simp only [memRead, if_true, hne, if_false] at this
          rw [memRead_below size n (k' + 1) k hn.2 (by omega)] at this
          exact absurd this hm.1.2.2
        · exact heq
        · have := h k'
          have hne : k' ≠ k := by omega
          simp only [memRead, if_true, hne, if_false] at this
          rw [memRead_below size m (k + 1) k' hm.2 (by omega)] at this
          exact absurd this.symm hn.1.2.2
      subst hk
      have hv : v = v' := by simpa [memRead] using h k
      subst hv
      refine congrArg _ (ih n (k + 1) hm.2 hn.2 fun j => ?_)
      by_cases hj : j = k
      · subst hj
        rw [memRead_below size m (j + 1) j hm.2 (by omega), memRead_below size n (j + 1) j hn.2 (by omega)]
      · simpa [memRead, hj] using h j

end Sys2Proof.Machine
end

