-- ==== Sys2Proof/Laws/State.lean ====
section
/-! SUPPORT. One lemma per field per named update of the state: what each update leaves in each field. -/

namespace Sys2Proof.Machine

/-! ### `emit` -/

@[simp] theorem emit_cfg (o : StepOut) (s : State) : (emit o s).cfg = s.cfg := rfl

@[simp] theorem emit_tickCnt (o : StepOut) (s : State) : (emit o s).tickCnt = s.tickCnt := rfl

@[simp] theorem emit_tickFlag (o : StepOut) (s : State) : (emit o s).tickFlag = s.tickFlag := rfl

@[simp] theorem emit_divN (o : StepOut) (s : State) : (emit o s).divN = s.divN := rfl

@[simp] theorem emit_ch (o : StepOut) (s : State) : (emit o s).ch = s.ch := rfl

@[simp] theorem emit_localCode (o : StepOut) (s : State) : (emit o s).localCode = s.localCode := rfl

@[simp] theorem emit_rxState (o : StepOut) (s : State) : (emit o s).rxState = s.rxState := rfl

@[simp] theorem emit_rxSize (o : StepOut) (s : State) : (emit o s).rxSize = s.rxSize := rfl

@[simp] theorem emit_rxCmd (o : StepOut) (s : State) : (emit o s).rxCmd = s.rxCmd := rfl

@[simp] theorem emit_rxCount (o : StepOut) (s : State) : (emit o s).rxCount = s.rxCount := rfl

@[simp] theorem emit_rxBuf (o : StepOut) (s : State) : (emit o s).rxBuf = s.rxBuf := rfl

@[simp] theorem emit_errCount (o : StepOut) (s : State) : (emit o s).errCount = s.errCount := rfl

@[simp] theorem emit_refused (o : StepOut) (s : State) : (emit o s).refused = s.refused := rfl

@[simp] theorem emit_outs (o : StepOut) (s : State) : (emit o s).outs = [o] := rfl

@[simp] theorem emit_inputs (o : StepOut) (s : State) : (emit o s).inputs = s.inputs := rfl

/-! ### `setChannel` -/

@[simp] theorem setChannel_cfg (i : Nat) (c : Channel) (s : State) : (setChannel i c s).cfg = s.cfg := rfl

@[simp] theorem setChannel_tickCnt (i : Nat) (c : Channel) (s : State) : (setChannel i c s).tickCnt = s.tickCnt := rfl

@[simp] theorem setChannel_tickFlag (i : Nat) (c : Channel) (s : State) : (setChannel i c s).tickFlag = s.tickFlag := rfl

@[simp] theorem setChannel_divN (i : Nat) (c : Channel) (s : State) : (setChannel i c s).divN = s.divN := rfl

@[simp] theorem setChannel_ch (i : Nat) (c : Channel) (s : State) : (setChannel i c s).ch = s.ch.set (i - 1) c := rfl

@[simp] theorem setChannel_localCode (i : Nat) (c : Channel) (s : State) : (setChannel i c s).localCode = s.localCode := rfl

@[simp] theorem setChannel_rxState (i : Nat) (c : Channel) (s : State) : (setChannel i c s).rxState = s.rxState := rfl

@[simp] theorem setChannel_rxSize (i : Nat) (c : Channel) (s : State) : (setChannel i c s).rxSize = s.rxSize := rfl

@[simp] theorem setChannel_rxCmd (i : Nat) (c : Channel) (s : State) : (setChannel i c s).rxCmd = s.rxCmd := rfl

@[simp] theorem setChannel_rxCount (i : Nat) (c : Channel) (s : State) : (setChannel i c s).rxCount = s.rxCount := rfl

@[simp] theorem setChannel_rxBuf (i : Nat) (c : Channel) (s : State) : (setChannel i c s).rxBuf = s.rxBuf := rfl

@[simp] theorem setChannel_errCount (i : Nat) (c : Channel) (s : State) : (setChannel i c s).errCount = s.errCount := rfl

@[simp] theorem setChannel_refused (i : Nat) (c : Channel) (s : State) : (setChannel i c s).refused = s.refused := rfl

@[simp] theorem setChannel_outs (i : Nat) (c : Channel) (s : State) : (setChannel i c s).outs = s.outs := rfl

@[simp] theorem setChannel_inputs (i : Nat) (c : Channel) (s : State) : (setChannel i c s).inputs = s.inputs := rfl

/-! ### `selectOff` -/

@[simp] theorem selectOff_cfg (i : Nat) (s : State) : (selectOff i s).cfg = s.cfg := rfl

@[simp] theorem selectOff_tickCnt (i : Nat) (s : State) : (selectOff i s).tickCnt = s.tickCnt := rfl

@[simp] theorem selectOff_tickFlag (i : Nat) (s : State) : (selectOff i s).tickFlag = s.tickFlag := rfl

@[simp] theorem selectOff_divN (i : Nat) (s : State) : (selectOff i s).divN = s.divN := rfl

@[simp] theorem selectOff_ch (i : Nat) (s : State) : (selectOff i s).ch = s.ch.set (i - 1) offChannel := rfl

@[simp] theorem selectOff_localCode (i : Nat) (s : State) : (selectOff i s).localCode = s.localCode := rfl

@[simp] theorem selectOff_rxState (i : Nat) (s : State) : (selectOff i s).rxState = s.rxState := rfl

@[simp] theorem selectOff_rxSize (i : Nat) (s : State) : (selectOff i s).rxSize = s.rxSize := rfl

@[simp] theorem selectOff_rxCmd (i : Nat) (s : State) : (selectOff i s).rxCmd = s.rxCmd := rfl

@[simp] theorem selectOff_rxCount (i : Nat) (s : State) : (selectOff i s).rxCount = s.rxCount := rfl

@[simp] theorem selectOff_rxBuf (i : Nat) (s : State) : (selectOff i s).rxBuf = s.rxBuf := rfl

@[simp] theorem selectOff_errCount (i : Nat) (s : State) : (selectOff i s).errCount = s.errCount := rfl

@[simp] theorem selectOff_refused (i : Nat) (s : State) : (selectOff i s).refused = s.refused := rfl

@[simp] theorem selectOff_outs (i : Nat) (s : State) : (selectOff i s).outs = s.outs := rfl

@[simp] theorem selectOff_inputs (i : Nat) (s : State) : (selectOff i s).inputs = s.inputs := rfl

/-! ### `selectSolid` -/

@[simp] theorem selectSolid_cfg (i : Nat) (c : Byte) (s : State) : (selectSolid i c s).cfg = s.cfg := rfl

@[simp] theorem selectSolid_tickCnt (i : Nat) (c : Byte) (s : State) : (selectSolid i c s).tickCnt = s.tickCnt := rfl

@[simp] theorem selectSolid_tickFlag (i : Nat) (c : Byte) (s : State) : (selectSolid i c s).tickFlag = s.tickFlag := rfl

@[simp] theorem selectSolid_divN (i : Nat) (c : Byte) (s : State) : (selectSolid i c s).divN = s.divN := rfl

@[simp] theorem selectSolid_ch (i : Nat) (c : Byte) (s : State) : (selectSolid i c s).ch = s.ch.set (i - 1) (solidChannel c) := rfl

@[simp] theorem selectSolid_localCode (i : Nat) (c : Byte) (s : State) : (selectSolid i c s).localCode = s.localCode := rfl

@[simp] theorem selectSolid_rxState (i : Nat) (c : Byte) (s : State) : (selectSolid i c s).rxState = s.rxState := rfl

@[simp] theorem selectSolid_rxSize (i : Nat) (c : Byte) (s : State) : (selectSolid i c s).rxSize = s.rxSize := rfl

@[simp] theorem selectSolid_rxCmd (i : Nat) (c : Byte) (s : State) : (selectSolid i c s).rxCmd = s.rxCmd := rfl

@[simp] theorem selectSolid_rxCount (i : Nat) (c : Byte) (s : State) : (selectSolid i c s).rxCount = s.rxCount := rfl

@[simp] theorem selectSolid_rxBuf (i : Nat) (c : Byte) (s : State) : (selectSolid i c s).rxBuf = s.rxBuf := rfl

@[simp] theorem selectSolid_errCount (i : Nat) (c : Byte) (s : State) : (selectSolid i c s).errCount = s.errCount := rfl

@[simp] theorem selectSolid_refused (i : Nat) (c : Byte) (s : State) : (selectSolid i c s).refused = s.refused := rfl

@[simp] theorem selectSolid_outs (i : Nat) (c : Byte) (s : State) : (selectSolid i c s).outs = s.outs := rfl

@[simp] theorem selectSolid_inputs (i : Nat) (c : Byte) (s : State) : (selectSolid i c s).inputs = s.inputs := rfl

/-! ### `selectFlash` -/

@[simp] theorem selectFlash_cfg (i : Nat) (c p : Byte) (s : State) : (selectFlash i c p s).cfg = s.cfg := rfl

@[simp] theorem selectFlash_tickCnt (i : Nat) (c p : Byte) (s : State) : (selectFlash i c p s).tickCnt = s.tickCnt := rfl

@[simp] theorem selectFlash_tickFlag (i : Nat) (c p : Byte) (s : State) : (selectFlash i c p s).tickFlag = s.tickFlag := rfl

@[simp] theorem selectFlash_divN (i : Nat) (c p : Byte) (s : State) : (selectFlash i c p s).divN = p := rfl

@[simp] theorem selectFlash_ch (i : Nat) (c p : Byte) (s : State) : (selectFlash i c p s).ch = s.ch.set (i - 1) (flashChannel c) := rfl

@[simp] theorem selectFlash_localCode (i : Nat) (c p : Byte) (s : State) : (selectFlash i c p s).localCode = s.localCode := rfl

@[simp] theorem selectFlash_rxState (i : Nat) (c p : Byte) (s : State) : (selectFlash i c p s).rxState = s.rxState := rfl

@[simp] theorem selectFlash_rxSize (i : Nat) (c p : Byte) (s : State) : (selectFlash i c p s).rxSize = s.rxSize := rfl

@[simp] theorem selectFlash_rxCmd (i : Nat) (c p : Byte) (s : State) : (selectFlash i c p s).rxCmd = s.rxCmd := rfl

@[simp] theorem selectFlash_rxCount (i : Nat) (c p : Byte) (s : State) : (selectFlash i c p s).rxCount = s.rxCount := rfl

@[simp] theorem selectFlash_rxBuf (i : Nat) (c p : Byte) (s : State) : (selectFlash i c p s).rxBuf = s.rxBuf := rfl

@[simp] theorem selectFlash_errCount (i : Nat) (c p : Byte) (s : State) : (selectFlash i c p s).errCount = s.errCount := rfl

@[simp] theorem selectFlash_refused (i : Nat) (c p : Byte) (s : State) : (selectFlash i c p s).refused = s.refused := rfl

@[simp] theorem selectFlash_outs (i : Nat) (c p : Byte) (s : State) : (selectFlash i c p s).outs = s.outs := rfl

@[simp] theorem selectFlash_inputs (i : Nat) (c p : Byte) (s : State) : (selectFlash i c p s).inputs = s.inputs := rfl

/-! ### `selectFade` -/

@[simp] theorem selectFade_cfg (i : Nat) (lo hi st : Byte) (s : State) : (selectFade i lo hi st s).cfg = s.cfg := rfl

@[simp] theorem selectFade_tickCnt (i : Nat) (lo hi st : Byte) (s : State) : (selectFade i lo hi st s).tickCnt = s.tickCnt := rfl

@[simp] theorem selectFade_tickFlag (i : Nat) (lo hi st : Byte) (s : State) : (selectFade i lo hi st s).tickFlag = s.tickFlag := rfl

@[simp] theorem selectFade_divN (i : Nat) (lo hi st : Byte) (s : State) : (selectFade i lo hi st s).divN = s.divN := rfl

@[simp] theorem selectFade_ch (i : Nat) (lo hi st : Byte) (s : State) : (selectFade i lo hi st s).ch = s.ch.set (i - 1) (fadeChannel lo hi st) := rfl

@[simp] theorem selectFade_localCode (i : Nat) (lo hi st : Byte) (s : State) : (selectFade i lo hi st s).localCode = s.localCode := rfl

@[simp] theorem selectFade_rxState (i : Nat) (lo hi st : Byte) (s : State) : (selectFade i lo hi st s).rxState = s.rxState := rfl

@[simp] theorem selectFade_rxSize (i : Nat) (lo hi st : Byte) (s : State) : (selectFade i lo hi st s).rxSize = s.rxSize := rfl

@[simp] theorem selectFade_rxCmd (i : Nat) (lo hi st : Byte) (s : State) : (selectFade i lo hi st s).rxCmd = s.rxCmd := rfl

@[simp] theorem selectFade_rxCount (i : Nat) (lo hi st : Byte) (s : State) : (selectFade i lo hi st s).rxCount = s.rxCount := rfl

@[simp] theorem selectFade_rxBuf (i : Nat) (lo hi st : Byte) (s : State) : (selectFade i lo hi st s).rxBuf = s.rxBuf := rfl

@[simp] theorem selectFade_errCount (i : Nat) (lo hi st : Byte) (s : State) : (selectFade i lo hi st s).errCount = s.errCount := rfl

@[simp] theorem selectFade_refused (i : Nat) (lo hi st : Byte) (s : State) : (selectFade i lo hi st s).refused = s.refused := rfl

@[simp] theorem selectFade_outs (i : Nat) (lo hi st : Byte) (s : State) : (selectFade i lo hi st s).outs = s.outs := rfl

@[simp] theorem selectFade_inputs (i : Nat) (lo hi st : Byte) (s : State) : (selectFade i lo hi st s).inputs = s.inputs := rfl

/-! ### `toWait` -/

@[simp] theorem toWait_cfg (s : State) : (toWait s).cfg = s.cfg := rfl

@[simp] theorem toWait_tickCnt (s : State) : (toWait s).tickCnt = s.tickCnt := rfl

@[simp] theorem toWait_tickFlag (s : State) : (toWait s).tickFlag = s.tickFlag := rfl

@[simp] theorem toWait_divN (s : State) : (toWait s).divN = s.divN := rfl

@[simp] theorem toWait_ch (s : State) : (toWait s).ch = s.ch := rfl

@[simp] theorem toWait_localCode (s : State) : (toWait s).localCode = s.localCode := rfl

@[simp] theorem toWait_rxState (s : State) : (toWait s).rxState = .wait := rfl

@[simp] theorem toWait_rxSize (s : State) : (toWait s).rxSize = 0 := rfl

@[simp] theorem toWait_rxCmd (s : State) : (toWait s).rxCmd = 0 := rfl

@[simp] theorem toWait_rxCount (s : State) : (toWait s).rxCount = 0 := rfl

@[simp] theorem toWait_rxBuf (s : State) : (toWait s).rxBuf = [] := rfl

@[simp] theorem toWait_errCount (s : State) : (toWait s).errCount = s.errCount := rfl

@[simp] theorem toWait_refused (s : State) : (toWait s).refused = s.refused := rfl

@[simp] theorem toWait_outs (s : State) : (toWait s).outs = s.outs := rfl

@[simp] theorem toWait_inputs (s : State) : (toWait s).inputs = s.inputs := rfl

/-! ### `takeInput` -/

@[simp] theorem takeInput_cfg (s : State) : (takeInput s).cfg = s.cfg := rfl

@[simp] theorem takeInput_tickCnt (s : State) : (takeInput s).tickCnt = s.tickCnt := rfl

@[simp] theorem takeInput_tickFlag (s : State) : (takeInput s).tickFlag = s.tickFlag := rfl

@[simp] theorem takeInput_divN (s : State) : (takeInput s).divN = s.divN := rfl

@[simp] theorem takeInput_ch (s : State) : (takeInput s).ch = s.ch := rfl

@[simp] theorem takeInput_localCode (s : State) : (takeInput s).localCode = s.localCode := rfl

@[simp] theorem takeInput_rxState (s : State) : (takeInput s).rxState = s.rxState := rfl

@[simp] theorem takeInput_rxSize (s : State) : (takeInput s).rxSize = s.rxSize := rfl

@[simp] theorem takeInput_rxCmd (s : State) : (takeInput s).rxCmd = s.rxCmd := rfl

@[simp] theorem takeInput_rxCount (s : State) : (takeInput s).rxCount = s.rxCount := rfl

@[simp] theorem takeInput_rxBuf (s : State) : (takeInput s).rxBuf = s.rxBuf := rfl

@[simp] theorem takeInput_errCount (s : State) : (takeInput s).errCount = s.errCount := rfl

@[simp] theorem takeInput_refused (s : State) : (takeInput s).refused = s.refused := rfl

@[simp] theorem takeInput_outs (s : State) : (takeInput s).outs = s.outs := rfl

@[simp] theorem takeInput_inputs (s : State) : (takeInput s).inputs = s.inputs.tail := rfl

/-! ### `resetRegisters` -/

@[simp] theorem resetRegisters_cfg (s : State) : (resetRegisters s).cfg = s.cfg := rfl

@[simp] theorem resetRegisters_tickCnt (s : State) : (resetRegisters s).tickCnt = 0 := rfl

@[simp] theorem resetRegisters_tickFlag (s : State) : (resetRegisters s).tickFlag = false := rfl

@[simp] theorem resetRegisters_divN (s : State) : (resetRegisters s).divN = 0 := rfl

@[simp] theorem resetRegisters_ch (s : State) : (resetRegisters s).ch = List.replicate s.cfg.nOut offChannel := rfl

@[simp] theorem resetRegisters_localCode (s : State) : (resetRegisters s).localCode = 0 := rfl

@[simp] theorem resetRegisters_rxState (s : State) : (resetRegisters s).rxState = .wait := rfl

@[simp] theorem resetRegisters_rxSize (s : State) : (resetRegisters s).rxSize = 0 := rfl

@[simp] theorem resetRegisters_rxCmd (s : State) : (resetRegisters s).rxCmd = 0 := rfl

@[simp] theorem resetRegisters_rxCount (s : State) : (resetRegisters s).rxCount = 0 := rfl

@[simp] theorem resetRegisters_rxBuf (s : State) : (resetRegisters s).rxBuf = [] := rfl

@[simp] theorem resetRegisters_errCount (s : State) : (resetRegisters s).errCount = 0 := rfl

@[simp] theorem resetRegisters_refused (s : State) : (resetRegisters s).refused = s.refused := rfl

@[simp] theorem resetRegisters_outs (s : State) : (resetRegisters s).outs = s.outs := rfl

@[simp] theorem resetRegisters_inputs (s : State) : (resetRegisters s).inputs = s.inputs := rfl

/-! ### `countError` -/

@[simp] theorem countError_cfg (e : StepError) (s : State) : (countError e s).cfg = s.cfg := by
  unfold countError; split <;> rfl

@[simp] theorem countError_tickCnt (e : StepError) (s : State) : (countError e s).tickCnt = s.tickCnt := by
  unfold countError; split <;> rfl

@[simp] theorem countError_tickFlag (e : StepError) (s : State) : (countError e s).tickFlag = s.tickFlag := by
  unfold countError; split <;> rfl

@[simp] theorem countError_divN (e : StepError) (s : State) : (countError e s).divN = s.divN := by
  unfold countError; split <;> rfl

@[simp] theorem countError_ch (e : StepError) (s : State) : (countError e s).ch = s.ch := by
  unfold countError; split <;> rfl

@[simp] theorem countError_localCode (e : StepError) (s : State) : (countError e s).localCode = s.localCode := by
  unfold countError; split <;> rfl

@[simp] theorem countError_rxState (e : StepError) (s : State) : (countError e s).rxState = s.rxState := by
  unfold countError; split <;> rfl

@[simp] theorem countError_rxSize (e : StepError) (s : State) : (countError e s).rxSize = s.rxSize := by
  unfold countError; split <;> rfl

@[simp] theorem countError_rxCmd (e : StepError) (s : State) : (countError e s).rxCmd = s.rxCmd := by
  unfold countError; split <;> rfl

@[simp] theorem countError_rxCount (e : StepError) (s : State) : (countError e s).rxCount = s.rxCount := by
  unfold countError; split <;> rfl

@[simp] theorem countError_rxBuf (e : StepError) (s : State) : (countError e s).rxBuf = s.rxBuf := by
  unfold countError; split <;> rfl

@[simp] theorem countError_errCount (e : StepError) (s : State) :
    (countError e s).errCount = if counted s.cfg e then s.errCount + 1 else s.errCount := by
  unfold countError; split <;> rfl

@[simp] theorem countError_refused (e : StepError) (s : State) : (countError e s).refused = s.refused := by
  unfold countError; split <;> rfl

@[simp] theorem countError_outs (e : StepError) (s : State) : (countError e s).outs = s.outs := by
  unfold countError; split <;> rfl

@[simp] theorem countError_inputs (e : StepError) (s : State) : (countError e s).inputs = s.inputs := by
  unfold countError; split <;> rfl

end Sys2Proof.Machine
end

