-- ==== Sys2Proof/Laws/OutputAssignment.lean ====
section
/-! SUPPORT. What setOutput and the dispatch of a frame can do, said once: `DispatchEffect` relates the state and the
record before a command to those after it. -/

namespace Sys2Proof.Machine

/-- What the execution of a frame command leaves: only the channel file and the divider may differ, the records are
added after those there were, a changed channel file goes with a new record, and a changed divider with `Init`. -/
structure DispatchEffect (s : State) (o : StepOut) (u : State) (p : StepOut) : Prop where
  frame : u = { s with ch := u.ch, divN := u.divN }
  length : u.ch.length = s.ch.length
  records : ∃ l, p.disp = o.disp ++ l ∧ (u.ch ≠ s.ch → l ≠ []) ∧ (u.divN ≠ s.divN → DispatchRecord.init ∈ l)
  consumed : p.consumed = o.consumed
  err : p.err = o.err ∨ ∃ i v, p.err = .outputInvalid i v

theorem DispatchEffect.refl (s : State) (o : StepOut) : DispatchEffect s o s o :=
  ⟨rfl, rfl, ⟨[], by simp⟩, rfl, .inl rfl⟩

theorem DispatchEffect.trans {s u w : State} {o p q : StepOut} (h₁ : DispatchEffect s o u p)
    (h₂ : DispatchEffect u p w q) : DispatchEffect s o w q := by
  obtain ⟨f₁, n₁, ⟨l₁, e₁, c₁, d₁⟩, k₁, r₁⟩ := h₁
  obtain ⟨f₂, n₂, ⟨l₂, e₂, c₂, d₂⟩, k₂, r₂⟩ := h₂
  refine ⟨by rw [f₂, f₁], n₂.trans n₁, ⟨l₁ ++ l₂, by rw [e₂, e₁, List.append_assoc], fun h => ?_, fun h => ?_⟩,
    k₂.trans k₁, ?_⟩
  · by_cases hu : u.ch = s.ch
    · exact fun hl => c₂ (hu ▸ h) (List.append_eq_nil_iff.mp hl).2
    · exact fun hl => c₁ hu (List.append_eq_nil_iff.mp hl).1
  · by_cases hu : u.divN = s.divN
    · exact List.mem_append_right _ (d₂ (hu ▸ h))
    · exact List.mem_append_left _ (d₁ hu)
  · rcases r₂ with r₂ | r₂
    · rw [r₂]; exact r₁
    · exact .inr r₂

theorem setOutput_valid (i v : Byte) (s : State) (o : StepOut) (hi : isIndex s.cfg i = true)
    (hv : dom s.cfg i v = true) :
    setOutput i v s o = (selectSolid i.toNat v s, { o with disp := o.disp ++ [.setOutput i v] }) := by
  simp [setOutput, hi, hv]

theorem setOutput_effect (i v : Byte) (s : State) (o : StepOut) :
    DispatchEffect s o (setOutput i v s o).1 (setOutput i v s o).2 := by
  unfold setOutput
  split
  · exact ⟨rfl, by simp, ⟨[.setOutput i v], rfl, by simp, by simp⟩, rfl, .inl rfl⟩
  · exact ⟨rfl, rfl, ⟨[], by simp⟩, rfl, .inr ⟨i, v, rfl⟩⟩

/-- A read inside the buffer. -/
theorem bufRead_of_lt {cfg : Cfg} {m : Memory} {k : Nat} (h : k < cfg.rxMax) : bufRead cfg m k = memRead m k :=
  if_pos h

/-- A write inside the buffer. -/
theorem bufWrite_of_lt {cfg : Cfg} {m : Memory} {k : Nat} {b : Byte} (h : k < cfg.rxMax) :
    bufWrite cfg m k b = memWrite m k b :=
  if_pos h

/-- Every write keeps the canonical form. -/
theorem Memory.wf_bufWrite (cfg : Cfg) (m : Memory) (k : Nat) (b : Byte) (h : Memory.wf cfg.rxMax m = true) :
    Memory.wf cfg.rxMax (bufWrite cfg m k b) = true := by
  unfold bufWrite
  split
  · exact Memory.wf_memWrite _ _ _ _ h (by assumption)
  · exact h

theorem fadeOutput_effect (i lo hi st : Byte) (s : State) (o : StepOut) :
    DispatchEffect s o (fadeOutput i lo hi st s) { o with disp := o.disp ++ [.fade i lo hi st] } := by
  unfold fadeOutput
  split
  · exact ⟨rfl, by simp, ⟨[_], rfl, by simp, by simp⟩, rfl, .inl rfl⟩
  · exact ⟨rfl, rfl, ⟨[_], rfl, by simp, by simp⟩, rfl, .inl rfl⟩

theorem setOutputs_effect (ks : List Nat) (s : State) (o : StepOut) :
    DispatchEffect s o (setOutputs ks s o).1 (setOutputs ks s o).2 := by
  induction ks generalizing s o with
  | nil => exact DispatchEffect.refl _ _
  | cons k ks ih => exact (setOutput_effect _ _ s o).trans (ih _ _)

/-- What DISPATCH leaves (R201), from any state. -/
theorem dispatch_effect (s : State) (o : StepOut) : DispatchEffect s o (dispatch s o).1 (dispatch s o).2 := by
  unfold dispatch
  split
  · exact setOutput_effect _ _ _ _
  · split
    · exact ⟨rfl, by simp [cmdInitExec], ⟨[.init], rfl, by simp, by simp⟩, rfl, .inl rfl⟩
    · exact fadeOutput_effect _ _ _ _ _ _
    · exact setOutput_effect _ _ _ _
    · exact setOutputs_effect _ _ _
    · exact DispatchEffect.refl _ _

/-! ### The fields DISPATCH leaves alone -/

@[simp] theorem dispatch_cfg (s : State) (o : StepOut) : (dispatch s o).1.cfg = s.cfg := by
  rw [(dispatch_effect s o).frame]

@[simp] theorem dispatch_tickCnt (s : State) (o : StepOut) : (dispatch s o).1.tickCnt = s.tickCnt := by
  rw [(dispatch_effect s o).frame]

@[simp] theorem dispatch_tickFlag (s : State) (o : StepOut) : (dispatch s o).1.tickFlag = s.tickFlag := by
  rw [(dispatch_effect s o).frame]

@[simp] theorem dispatch_localCode (s : State) (o : StepOut) : (dispatch s o).1.localCode = s.localCode := by
  rw [(dispatch_effect s o).frame]

@[simp] theorem dispatch_rxState (s : State) (o : StepOut) : (dispatch s o).1.rxState = s.rxState := by
  rw [(dispatch_effect s o).frame]

@[simp] theorem dispatch_rxSize (s : State) (o : StepOut) : (dispatch s o).1.rxSize = s.rxSize := by
  rw [(dispatch_effect s o).frame]

@[simp] theorem dispatch_rxCmd (s : State) (o : StepOut) : (dispatch s o).1.rxCmd = s.rxCmd := by
  rw [(dispatch_effect s o).frame]

@[simp] theorem dispatch_rxCount (s : State) (o : StepOut) : (dispatch s o).1.rxCount = s.rxCount := by
  rw [(dispatch_effect s o).frame]

@[simp] theorem dispatch_rxBuf (s : State) (o : StepOut) : (dispatch s o).1.rxBuf = s.rxBuf := by
  rw [(dispatch_effect s o).frame]

@[simp] theorem dispatch_errCount (s : State) (o : StepOut) : (dispatch s o).1.errCount = s.errCount := by
  rw [(dispatch_effect s o).frame]

@[simp] theorem dispatch_refused (s : State) (o : StepOut) : (dispatch s o).1.refused = s.refused := by
  rw [(dispatch_effect s o).frame]

@[simp] theorem dispatch_outs (s : State) (o : StepOut) : (dispatch s o).1.outs = s.outs := by
  rw [(dispatch_effect s o).frame]

@[simp] theorem dispatch_inputs (s : State) (o : StepOut) : (dispatch s o).1.inputs = s.inputs := by
  rw [(dispatch_effect s o).frame]

end Sys2Proof.Machine
end

