-- ==== Sys2Proof/Laws/Operands.lean ====
section
/-! SUPPORT. The field validator reads only the bytes stored before its position; the domain test of an index that names
an output. -/

namespace Sys2Proof.Machine

/-- FV at a position inside the buffer depends on the bytes before it alone (R168). -/
theorem fieldValid_congr (cfg : Cfg) (cmd : Byte) (m n : Memory) (k : Nat) (b : Byte) (hk : k < cfg.rxMax)
    (h : ∀ j, j < k → memRead m j = memRead n j) : fieldValid cfg cmd m k b = fieldValid cfg cmd n k b := by
  have hb : ∀ j, j < k → bufRead cfg m j = bufRead cfg n j := by
    intro j hj
    rw [bufRead_of_lt (by omega), bufRead_of_lt (by omega), h j hj]
  unfold fieldValid setValFieldValid fadeFieldValid
  split
  · rfl
  · split
    · split
      · rfl
      · rw [hb 0 (by omega)]
      · rfl
    · split
      · rfl
      · rw [hb 0 (by omega)]
      · rw [hb 0 (by omega), hb 1 (by omega)]
      · rfl
      · rfl
    · rfl
    · rfl
    · rfl

/-- The domain test of an index that names an output is the test of its domain (R203). -/
theorem inDomain_of_dom (cfg : Cfg) (i v : Byte) (d : Domain) (hi : isIndex cfg i = true) (h : dom cfg i v = true)
    (hd : cfg.domain[i.toNat - 1]? = some d) : inDomain d v = true := by
  simp only [isIndex, decide_eq_true_eq] at hi
  have h0 : i ≠ 0 := by
    rintro rfl
    simp at hi
  unfold dom at h
  rw [if_neg h0, hd] at h
  exact h

end Sys2Proof.Machine
end

