-- ==== Sys2Proof/Laws/Parser.lean ====
section
/-! SUPPORT. What an RX can do, said once (`receive_effect`), that it always answers a next state, and how the RX events of several bytes compose. -/

namespace Sys2Proof.Machine

/-- The four parser errors an RX of byte `b` can raise (R221). -/
def isRxError (b : Byte) (e : StepError) : Prop :=
  e = .frameSyntaxStart ∨ e = .frameSyntax b ∨ e = .fieldRange b ∨ e = .bufferOverflow b

/-- The state a raised parser error leaves (R222). -/
def afterError (e : StepError) (s : State) : State := emit { StepOut.quiet with err := e } (countError e (toWait s))

theorem raiseError_eq (e : StepError) (s : State) : raiseError e s = .next (afterError e s) := rfl

/-- What `raise` leaves (R222, R223), field by field. -/
theorem raiseError_next (e : StepError) (s : State) :
    raiseError e s = .next
      { s with
        rxState := .wait, rxSize := 0, rxCmd := 0, rxCount := 0, rxBuf := []
        errCount := if counted s.cfg e then s.errCount + 1 else s.errCount
        outs := [{ disp := [], err := e, consumed := false }] } := by
  unfold raiseError countError
  split <;> simp_all [toWait, emit, StepOut.quiet]

/-- The state an accepted byte leaves short of the dispatch: parser registers only, a quiet record. -/
def parserMove (t s : State) : Prop :=
  t = { s with
    rxState := t.rxState, rxSize := t.rxSize, rxCmd := t.rxCmd, rxCount := t.rxCount, rxBuf := t.rxBuf
    outs := [.quiet] }

/-- The four things an RX can have done (R160). -/
inductive RxEffect (b : Byte) (s : State) : State → Prop where
  | refused : RxEffect b s { s with refused := true, outs := [] }
  | error (e : StepError) (he : isRxError b e) : RxEffect b s (afterError e s)
  | moved (t : State) (h : parserMove t s) : RxEffect b s t
  | dispatched (hs : s.rxState = .validate) (hb : b = Config.endByte) :
      RxEffect b s (emit (dispatch s .quiet).2 (toWait (dispatch s .quiet).1))

theorem rxStore_effect (b : Byte) (s t : State) (h : rxStore b s = .next t) : RxEffect b s t := by
  cases h
  exact .moved _ rfl

theorem rxByState_effect (b : Byte) (s t : State) (h : rxByState b s = .next t) : RxEffect b s t := by
  unfold rxByState at h
  split at h
  · unfold rxWait at h
    split at h
    · split at h <;> (cases h; exact .moved _ rfl)
    · cases h
      exact .error _ (.inl rfl)
  · unfold rxSizeByte at h
    split at h
    · cases h
      exact .moved _ rfl
    · cases h
      exact .error _ (.inr (.inr (.inr rfl)))
  · split at h
    · unfold rxIndex at h
      split at h
      · cases h
        exact .moved _ rfl
      · cases h
        exact .error _ (.inr (.inr (.inl rfl)))
    · unfold rxCommand at h
      split at h
      · cases h
        exact .moved _ rfl
      · cases h
        exact .error _ (.inr (.inr (.inl rfl)))
  · unfold rxData at h
    split at h
    · cases h
      exact .error _ (.inr (.inr (.inl rfl)))
    · split at h
      · exact rxStore_effect b s t h
      · cases h
        exact .error _ (.inr (.inr (.inl rfl)))
  · rename_i hv
    unfold rxValidate at h
    split at h
    · rename_i hb
      cases h
      exact .dispatched hv hb
    · cases h
      exact .error _ (.inr (.inl rfl))
  · cases h
    exact .refused
  · cases h
    exact .refused
  · cases h
    exact .refused

/-- The inversion of RX (R160). -/
theorem receive_effect (b : Byte) (s t : State) (h : receive b s = .next t) : RxEffect b s t := by
  unfold receive underLegalCfg at h
  split at h
  · split at h
    · exact rxByState_effect b s t h
    · cases h
      exact .refused
  · cases h
    exact .refused

/-- RX under a legal configuration with the serial interface connected. -/
theorem receive_serial (b : Byte) (s : State) (hl : cfgLegal s.cfg = true) (hc : s.cfg.control = .serial) :
    receive b s = rxByState b s := by
  simp [receive, underLegalCfg, hl, hc]

/-- RX is refused under an ill-formed configuration or with the local selector connected (R12). -/
theorem receive_refused (b : Byte) (s : State) (h : cfgLegal s.cfg = false ∨ s.cfg.control = .localTable) :
    receive b s = refuseEvent s := by
  rcases h with h | h <;> simp [receive, underLegalCfg, h]

theorem receiveAll_cons (b : Byte) (bs : List Byte) (s s' : State) (h : receive b s = .next s') :
    receiveAll (b :: bs) s = receiveAll bs { s' with outs := s.outs ++ s'.outs } := by
  rw [receiveAll, h]

/-- RX answers a next state from every state (R12, R226). -/
theorem receive_next (b : Byte) (s : State) : ∃ t, receive b s = .next t := by
  cases h : receive b s with
  | next t => exact ⟨t, rfl⟩
  | fault f => cases f
  | refused r =>
    unfold receive underLegalCfg rxByState rxWait rxSizeByte rxIndex rxCommand rxData rxStore rxValidate at h
    repeat' split at h
    all_goals cases h

/-- The RX events of any bytes answer a next state from every state. -/
theorem receiveAll_next (bs : List Byte) (s : State) : ∃ t, receiveAll bs s = .next t := by
  induction bs generalizing s with
  | nil => exact ⟨s, rfl⟩
  | cons b bs ih =>
    obtain ⟨u, hu⟩ := receive_next b s
    rw [receiveAll_cons _ _ _ _ hu]
    exact ih _

/-- A property of states that each RX keeps is kept by the RX events of any bytes. -/
theorem receiveAll_keeps (P : State → Prop) (hP : ∀ b s t, receive b s = .next t → P s → P t)
    (hout : ∀ s o, P s → P { s with outs := o }) (bs : List Byte) (s t : State) (h : receiveAll bs s = .next t)
    (hs : P s) : P t := by
  induction bs generalizing s with
  | nil =>
    cases h
    exact hs
  | cons b bs ih =>
    rw [receiveAll] at h
    split at h
    · rename_i s' he
      exact ih _ h (hout _ _ (hP b s s' he hs))
    · cases h
    · cases h

end Sys2Proof.Machine
end

