-- ==== Sys2Proof/Laws/PerInstr.lean ====
section
/-! SUPPORT. Statements made for every instruction, one lemma per constructor. -/

namespace Sys2Proof.Laws.FrameLength

open Sys2Proof Sys2Proof.Machine

/-- R75: the length of a frame is known from its bytes: 4 under TWO_FIELD, SIZE + 4 under MULTI_FIELD with SIZE in byte
1. An event has no frame. -/
def Statement (i : Instr) : Prop :=
  ∀ (cfg : Cfg) (bytes : List Byte), cfg.rxMax ≤ 256 → i.wellFormed cfg = true → encode cfg i = .frame bytes →
    bytes.length = (match cfg.protocol with
      | .twoField => 4
      | .multiField => (bytes.getD 1 0).toNat + 4)

/-- The length of the bytes a multi-field encoding writes. -/
theorem multiField_length (cfg : Cfg) (c : Byte) (d bytes : List Byte) (hd : d.length < 256)
    (hp : cfg.protocol = .multiField) (h : Input.frame (multiFieldBytes c d) = .frame bytes) :
    bytes.length = (match cfg.protocol with
      | .twoField => 4
      | .multiField => (bytes.getD 1 0).toNat + 4) := by
  cases h
  rw [hp]
  simp [multiFieldBytes, Nat.mod_eq_of_lt hd]

theorem reset : Statement .reset := fun _ _ _ _ h => by cases h

theorem irq : Statement .irq := fun _ _ _ _ h => by cases h

theorem poll : Statement .poll := fun _ _ _ _ h => by cases h

theorem rx (b : Byte) : Statement (.rx b) := fun _ _ _ _ h => by cases h

theorem local0 : Statement .local0 := fun _ _ _ _ h => by cases h

theorem local1 : Statement .local1 := fun _ _ _ _ h => by cases h

theorem local2 : Statement .local2 := fun _ _ _ _ h => by cases h

theorem local3 : Statement .local3 := fun _ _ _ _ h => by cases h

theorem local4 : Statement .local4 := fun _ _ _ _ h => by cases h

theorem local5 : Statement .local5 := fun _ _ _ _ h => by cases h

theorem local6 : Statement .local6 := fun _ _ _ _ h => by cases h

theorem local7 : Statement .local7 := fun _ _ _ _ h => by cases h

theorem setdiv (n : Byte) : Statement (.setdiv n) := fun _ _ _ _ h => by cases h

theorem frame2 (i v : Byte) : Statement (.frame2 i v) := fun cfg bytes _ hw h => by
  simp only [Instr.wellFormed, Bool.and_eq_true, decide_eq_true_eq] at hw
  cases h
  rw [hw.1.1.1]
  rfl

theorem init : Statement .init := fun cfg bytes _ hw h => by
  simp only [Instr.wellFormed, Bool.and_eq_true, decide_eq_true_eq] at hw
  exact multiField_length cfg _ [] bytes (by simp) hw.1 h

theorem fade (i lo hi st : Byte) : Statement (.fade i lo hi st) := fun cfg bytes _ hw h => by
  simp only [Instr.wellFormed, Bool.and_eq_true, decide_eq_true_eq] at hw
  exact multiField_length cfg _ [i, lo, hi, st] bytes (by simp) hw.1.1.1.1.1.1 h

theorem setval (i v : Byte) : Statement (.setval i v) := fun cfg bytes _ hw h => by
  simp only [Instr.wellFormed, Bool.and_eq_true, decide_eq_true_eq] at hw
  exact multiField_length cfg _ [i, v] bytes (by simp) hw.1.1.1.1 h

theorem setall (vs : List Byte) : Statement (.setall vs) := fun cfg bytes hR hw h => by
  simp only [Instr.wellFormed, Bool.and_eq_true, decide_eq_true_eq] at hw
  obtain ⟨⟨⟨⟨hp, hN⟩, hv⟩, -⟩, -⟩ := hw
  exact multiField_length cfg _ vs bytes (by omega) hp h

end Sys2Proof.Laws.FrameLength
end

