-- ==== Sys2Proof/Laws/Reception.lean ====
section
/-! SUPPORT. Runs of several instructions or bytes: how they compose, what a valid payload leaves in the buffer, and
that a reception looks neither at the output records nor at the inputs still to come. -/

namespace Sys2Proof.Machine

/-- A run of instructions is its first part and then the rest. -/
theorem execAll_append (is js : List Instr) (s t : State) (h : execAll is s = .next t) :
    execAll (is ++ js) s = execAll js t := by
  induction is generalizing s with
  | nil =>
    cases h
    rfl
  | cons i is ih =>
    rw [execAll] at h
    rw [List.cons_append, execAll]
    split at h
    · exact ih _ h
    · cases h
    · cases h

/-- The RX events of some bytes are those of the first part and then those of the rest. -/
theorem receiveAll_append (a b : List Byte) (s t : State) (h : receiveAll a s = .next t) :
    receiveAll (a ++ b) s = receiveAll b t := by
  induction a generalizing s with
  | nil =>
    cases h
    rfl
  | cons x a ih =>
    rw [receiveAll] at h
    rw [List.cons_append, receiveAll]
    split at h
    · exact ih _ h
    · cases h
    · cases h

/-- A LOCAL code that is not the current one applies its row (R134). -/
theorem selectLocal_new (c : BitVec 3) (row : State → State) (s : State) (h : cfgLegal s.cfg = true)
    (hc : s.cfg.control = .localTable) (he : s.localCode ≠ c) :
    selectLocal c row s = .next (emit .quiet (row { s with localCode := c })) := by
  simp only [selectLocal, underLegalCfg, h, hc, if_true]
  rw [if_neg (Ne.symm he)]

/-! ## A reception looks neither at the output records nor at the inputs still to come -/

/-- The state with other output records and other inputs still to come. -/
def relabel (o : List StepOut) (x : List Input) (s : State) : State := { s with outs := o, inputs := x }

theorem setOutput_relabel (i v : Byte) (s : State) (p : StepOut) (o : List StepOut) (x : List Input) :
    setOutput i v (relabel o x s) p = (relabel o x (setOutput i v s p).1, (setOutput i v s p).2) := by
  unfold setOutput
  show (if isIndex s.cfg i && dom s.cfg i v then _ else _) = _
  split <;> rfl

theorem setOutputs_relabel (ks : List Nat) (s : State) (p : StepOut) (o : List StepOut) (x : List Input) :
    setOutputs ks (relabel o x s) p = (relabel o x (setOutputs ks s p).1, (setOutputs ks s p).2) := by
  induction ks generalizing s p with
  | nil => rfl
  | cons k ks ih =>
    rw [setOutputs, setOutputs,
      show bufRead (relabel o x s).cfg (relabel o x s).rxBuf k = bufRead s.cfg s.rxBuf k from rfl, setOutput_relabel]
    exact ih _ _

theorem dispatch_relabel (s : State) (p : StepOut) (o : List StepOut) (x : List Input) :
    dispatch (relabel o x s) p = (relabel o x (dispatch s p).1, (dispatch s p).2) := by
  unfold dispatch
  rw [show (relabel o x s).cfg = s.cfg from rfl, show (relabel o x s).rxCmd = s.rxCmd from rfl]
  split
  · exact setOutput_relabel _ _ s p o x
  · split
    · rfl
    · unfold cmdFadeExec fadeOutput
      show ((if isIndex s.cfg (bufRead s.cfg s.rxBuf 0) then _ else _), _) = _
      simp only
      split <;> rfl
    · exact setOutput_relabel _ _ s p o x
    · exact setOutputs_relabel _ s p o x
    · rfl

/-- An RX from a relabelled state leaves what it leaves from the state itself, but for the inputs. -/
theorem receive_relabel (b : Byte) (s t : State) (o : List StepOut) (x : List Input) (h : receive b s = .next t) :
    receive b (relabel o x s) = .next { t with inputs := x } := by
  have hr : ∀ e u, raiseError e s = .next u → raiseError e (relabel o x s) = .next { u with inputs := x } := by
    intro e u hu
    rw [raiseError_next] at hu ⊢
    cases hu
    rfl
  have hcfg : (relabel o x s).cfg = s.cfg := rfl
  unfold receive underLegalCfg at h ⊢
  rw [hcfg]
  split at h <;> rename_i hl
  · rw [if_pos hl]
    split at h
    · unfold rxByState at h ⊢
      rw [hcfg, show (relabel o x s).rxState = s.rxState from rfl]
      split at h
      · unfold rxWait at h ⊢
        split at h <;> rename_i hb
        · rw [if_pos hb, hcfg]
          split at h <;> (cases h; rfl)
        · rw [if_neg hb]
          exact hr _ _ h
      · unfold rxSizeByte at h ⊢
        rw [hcfg]
        split at h <;> rename_i hb
        · rw [if_pos hb]
          cases h
          rfl
        · rw [if_neg hb]
          exact hr _ _ h
      · split at h
        · unfold rxIndex at h ⊢
          rw [hcfg]
          split at h <;> rename_i hb
          · rw [if_pos hb]
            cases h
            rfl
          · rw [if_neg hb]
            exact hr _ _ h
        · unfold rxCommand at h ⊢
          rw [show commandAccepted (relabel o x s) b = commandAccepted s b from rfl]
          split at h <;> rename_i hb
          · rw [if_pos hb]
            cases h
            rfl
          · rw [if_neg hb]
            exact hr _ _ h
      · unfold rxData at h ⊢
        rw [hcfg, show fieldValid s.cfg (relabel o x s).rxCmd (relabel o x s).rxBuf (relabel o x s).rxCount.toNat b =
          fieldValid s.cfg s.rxCmd s.rxBuf s.rxCount.toNat b from rfl]
        split at h <;> rename_i hb
        · rw [if_pos hb]
          exact hr _ _ h
        · rw [if_neg hb]
          split at h <;> rename_i hf
          · rw [if_pos hf]
            cases h
            rfl
          · rw [if_neg hf]
            exact hr _ _ h
      · unfold rxValidate at h ⊢
        split at h <;> rename_i hb
        · rw [if_pos hb, dispatch_relabel]
          cases h
          rfl
        · rw [if_neg hb]
          exact hr _ _ h
      · cases h
        rfl
      · cases h
        rfl
      · cases h
        rfl
    · cases h
      rfl
  · rw [if_neg hl]
    cases h
    rfl

/-! ## The payload -/

/-- A buffer with the bytes of a payload stored from index `k` on. -/
def fill : Nat → List Byte → Memory → Memory
  | _, [], m => m
  | k, b :: bs, m => fill (k + 1) bs (memWrite m k b)

theorem fill_wf (size k : Nat) (bs : List Byte) (m : Memory) (h : Memory.wf size m = true)
    (hk : k + bs.length ≤ size) : Memory.wf size (fill k bs m) = true := by
  induction bs generalizing k m with
  | nil => exact h
  | cons b bs ih =>
    simp only [List.length_cons] at hk
    exact ih _ _ (Memory.wf_memWrite _ _ _ _ h (by omega)) (by omega)

theorem memRead_fill_below (size k : Nat) (bs : List Byte) (m : Memory) (h : Memory.wf size m = true)
    (hk : k + bs.length ≤ size) (j : Nat) (hj : j < k) : memRead (fill k bs m) j = memRead m j := by
  induction bs generalizing k m with
  | nil => rfl
  | cons b bs ih =>
    simp only [List.length_cons] at hk
    rw [fill, ih _ _ (Memory.wf_memWrite _ _ _ _ h (by omega)) (by omega) (by omega),
      Memory.read_write_other _ _ _ _ _ h (by omega)]

/-- Each stored byte reads back. -/
theorem memRead_fill (size k : Nat) (bs : List Byte) (m : Memory) (h : Memory.wf size m = true)
    (hk : k + bs.length ≤ size) (j : Nat) (hj : j < bs.length) : memRead (fill k bs m) (k + j) = bs[j] := by
  induction bs generalizing k m j with
  | nil => simp at hj
  | cons b bs ih =>
    simp only [List.length_cons] at hk hj
    have hw := Memory.wf_memWrite _ m k b h (by omega)
    cases j with
    | zero =>
      rw [fill, memRead_fill_below size _ _ _ hw (by omega) _ (by omega)]
      exact Memory.read_write_same _ _ _ _ h
    | succ j =>
      have := ih (k + 1) _ hw (by omega) j (by omega)
      rw [fill, show k + (j + 1) = k + 1 + j by omega, this]
      rfl

/-- The bytes pass the tests of RX in DATA one after the other from index `k` on (R166). -/
def payloadPasses (cfg : Cfg) (cmd : Byte) : Nat → Memory → List Byte → Prop
  | _, _, [] => True
  | k, m, b :: bs =>
    isReserved cfg b = false ∧ fieldValid cfg cmd m k b = true ∧
      payloadPasses cfg cmd (k + 1) (memWrite m k b) bs

/-- The rest of a payload received in DATA: every byte is stored, and the last one moves to VALIDATE (R166). -/
theorem receiveAll_payload (bs : List Byte) (s : State) (k : Nat) (hl : cfgLegal s.cfg = true)
    (hc : s.cfg.control = .serial) (hs : s.rxState = .data) (hk : s.rxCount.toNat = k)
    (hz : s.rxSize.toNat = k + bs.length) (hne : bs ≠ []) (hR : k + bs.length ≤ s.cfg.rxMax)
    (hv : payloadPasses s.cfg s.rxCmd k s.rxBuf bs) :
    receiveAll bs s = .next
      { s with
        rxBuf := fill k bs s.rxBuf
        rxCount := s.rxSize
        rxState := .validate
        outs := s.outs ++ List.replicate bs.length .quiet } := by
  induction bs generalizing s k with
  | nil => exact absurd rfl hne
  | cons b bs ih =>
    obtain ⟨v1, v2, v3⟩ := hv
    simp only [List.length_cons] at hz hR
    have h256 : k + 1 < 256 := by have := s.rxSize.isLt; omega
    have e : receive b s = .next (emit .quiet { s with
        rxBuf := memWrite s.rxBuf k b
        rxCount := BitVec.ofNat 8 (k + 1)
        rxState := if k + 1 = s.rxSize.toNat then .validate else .data }) := by
      rw [receive_serial b s hl hc]
      unfold rxByState
      rw [hs]
      show rxData b s = _
      unfold rxData
      rw [if_neg (by simp [v1]), hk, if_pos v2]
      unfold rxStore
      rw [hk, bufWrite_of_lt (by omega), countAfter, if_pos h256]
    rw [receiveAll_cons _ _ _ _ e]
    by_cases hb : bs = []
    · subst hb
      have he : k + 1 = s.rxSize.toNat := by simp only [List.length_nil] at hz; omega
      simp only [receiveAll, emit, he, if_true, fill]
      simp
    · have hbl : 0 < bs.length := List.length_pos_iff.2 hb
      have he : ¬ (k + 1 = s.rxSize.toNat) := by omega
      simp only [emit, he, if_false]
      refine (ih { s with
          rxBuf := memWrite s.rxBuf k b, rxCount := BitVec.ofNat 8 (k + 1), rxState := .data
          outs := s.outs ++ [.quiet] }
        (k + 1) hl hc rfl (by simp [Nat.mod_eq_of_lt h256]) (by simp; omega) hb (by simp; omega) v3).trans ?_
      simp [fill, List.replicate_succ]

end Sys2Proof.Machine
end

