-- ==== Sys2Proof/Laws/Timing.lean ====
section
/-! SUPPORT. The tick counter's arithmetic, and TIMER_IRQ and POLL under a well-formed configuration as one update. -/

namespace Sys2Proof.Machine

/-- The counter after a TIMER_IRQ, as a number (R100). -/
theorem nextCount_toNat (thr : Nat) (c : BitVec 16) (h1 : 1 ≤ thr) (h2 : thr ≤ 65535) :
    (nextCount thr c).toNat = (if thr ≤ c.toNat + 1 then (c.toNat + 1) % thr else c.toNat + 1) ∧
      (nextCount thr c).toNat < thr := by
  have hm := Nat.mod_lt (c.toNat + 1) h1
  unfold nextCount tickReached
  by_cases hc : thr ≤ c.toNat + 1
  · simp only [hc, decide_true, if_true, BitVec.toNat_ofNat]
    rw [Nat.mod_eq_of_lt (by omega)]
    exact ⟨rfl, hm⟩
  · simp only [hc, decide_false, Bool.false_eq_true, if_false, BitVec.toNat_ofNat]
    rw [Nat.mod_eq_of_lt (by omega)]
    omega

/-- TIMER_IRQ under a well-formed configuration (R100). -/
theorem execIrq_next (s : State) (h : cfgLegal s.cfg = true) :
    execIrq s = .next
      { s with
        tickCnt := nextCount (thrEff s.cfg.tickThreshold s.divN) s.tickCnt
        tickFlag := s.tickFlag || tickReached (thrEff s.cfg.tickThreshold s.divN) s.tickCnt
        outs := [.quiet] } := by
  simp [execIrq, underLegalCfg, h, emit]

/-- POLL under a well-formed configuration (R130). -/
theorem execPoll_next (s : State) (h : cfgLegal s.cfg = true) :
    execPoll s = .next
      { s with
        tickFlag := false
        ch := s.ch.map (advance s.tickFlag)
        outs := [{ StepOut.quiet with consumed := s.tickFlag }] } := by
  simp [execPoll, underLegalCfg, h, emit, consume]

end Sys2Proof.Machine
end

