-- ==== Sys2Proof/Tests/Slice0.lean ====
section
/-! SUPPORT. The model's own tests: what the well-formedness checks refuse, words written out from the encoding tables,
single steps against the vectors of spec/95_test_vectors.md (each test names its vector), and for every statement with
hypotheses a state and operands that meet them, at the ends of their ranges. -/

namespace Sys2Proof.Tests

open Sys2Proof Sys2Proof.Machine

/-- The next state, where an outcome has one. -/
def nextOf : Host.Outcome State Fault Refusal → Option State
  | .next s => some s
  | .fault _ => none
  | .refused _ => none

/-- The default profile with another threshold. -/
def serialAt (t : Nat) : Cfg := { Config.defaultCfg with tickThreshold := t }

/-- The multi-field profile. -/
def multi : Cfg := { Config.defaultCfg with protocol := .multiField }

/-- The LOCAL profile. -/
def localAt (t : Nat) : Cfg := { localProfile Config.defaultCfg with tickThreshold := t }

def sTwo : State := State.resetOf Config.defaultCfg
def sMulti : State := State.resetOf multi
def sLocal : State := State.resetOf (localAt 1)

/-- Duties and phases of all channels. -/
def shown (s : State) : List Byte × List Bool := (s.ch.map (·.value), s.ch.map (·.phase))

/-- Errors and dispatch records of the step. -/
def errsOf (s : State) : List (BitVec 3) := s.outs.map fun o => errCode o.err
def dispOf (s : State) : List DispatchRecord := (s.outs.map (·.disp)).flatten

def fadeAt (lo hi st v : Byte) (p : Bool) : Channel := { fadeChannel lo hi st with value := v, phase := p }

/-! ## Well-formedness: an ill-formed term for each check -/

theorem test_wf_frame2 : (Instr.frame2 2 128).wellFormed Config.defaultCfg = true := by decide
theorem test_wf_frame2_protocol : (Instr.frame2 2 128).wellFormed multi = false := by decide
theorem test_wf_frame2_index : (Instr.frame2 0 1).wellFormed Config.defaultCfg = false ∧
    (Instr.frame2 4 1).wellFormed Config.defaultCfg = false := by decide
theorem test_wf_frame2_domain : (Instr.frame2 1 2).wellFormed Config.defaultCfg = false := by decide
theorem test_wf_frame2_reserved : (Instr.frame2 3 0x3C).wellFormed Config.defaultCfg = false ∧
    (Instr.frame2 3 0x3E).wellFormed Config.defaultCfg = false ∧
    (Instr.frame2 3 0x3C).wellFormed { Config.defaultCfg with reservedPolicy := .accept } = true := by decide
theorem test_wf_init : Instr.init.wellFormed multi = true ∧ Instr.init.wellFormed Config.defaultCfg = false ∧
    Instr.init.wellFormed { multi with rxMax := 0 } = false := by decide
theorem test_wf_fade : (Instr.fade 2 10 20 5).wellFormed multi = true := by decide
theorem test_wf_fade_protocol : (Instr.fade 2 10 20 5).wellFormed Config.defaultCfg = false := by decide
theorem test_wf_fade_capacity : (Instr.fade 2 10 20 5).wellFormed { multi with rxMax := 4 } = false := by decide
theorem test_wf_fade_index : (Instr.fade 4 10 20 5).wellFormed multi = false := by decide
theorem test_wf_fade_low : (Instr.fade 1 2 1 1).wellFormed multi = false := by decide
theorem test_wf_fade_high : (Instr.fade 1 0 2 1).wellFormed multi = false := by decide
theorem test_wf_fade_order : (Instr.fade 2 20 10 5).wellFormed multi = false := by decide
theorem test_wf_fade_reserved : (Instr.fade 2 10 20 0x3E).wellFormed multi = false := by decide
theorem test_wf_setval : (Instr.setval 3 200).wellFormed multi = true ∧
    (Instr.setval 3 200).wellFormed Config.defaultCfg = false ∧
    (Instr.setval 3 200).wellFormed { multi with rxMax := 2 } = false ∧ (Instr.setval 4 1).wellFormed multi = false ∧
    (Instr.setval 1 5).wellFormed multi = false ∧ (Instr.setval 2 0x3C).wellFormed multi = false := by decide
theorem test_wf_setall : (Instr.setall [1, 50, 70]).wellFormed multi = true ∧
    (Instr.setall [1, 50, 70]).wellFormed Config.defaultCfg = false ∧
    (Instr.setall [1, 50, 70]).wellFormed { multi with rxMax := 3 } = false ∧
    (Instr.setall [1, 50]).wellFormed multi = false ∧ (Instr.setall [2, 50, 70]).wellFormed multi = false ∧
    (Instr.setall [1, 50, 60]).wellFormed multi = false := by decide

/-- The ends of each range of R8, and one configuration for each of (a) to (f) that breaks it. -/
theorem test_cfg_ends : cfgLegal Config.defaultCfg = true ∧ cfgLegal multi = true ∧ cfgLegal (localAt 65535) = true ∧
    cfgLegal { Config.defaultCfg with nOut := 1, domain := [.bool], rxMax := 1 } = true := by decide
theorem test_cfg_most_outputs (l : List Domain) (h : l.length = 255) :
    cfgLegal { Config.defaultCfg with nOut := 255, domain := l, rxMax := 256 } = true := by
  simp [cfgLegal, Config.defaultCfg, h]
theorem test_cfg_outputs : cfgLegal { Config.defaultCfg with nOut := 0, domain := [] } = false ∧
    cfgLegal { Config.defaultCfg with domain := [.bool] } = false := by decide
theorem test_cfg_too_many_outputs (l : List Domain) :
    cfgLegal { Config.defaultCfg with nOut := 256, domain := l } = false := by
  simp [cfgLegal, Config.defaultCfg]
theorem test_cfg_threshold : cfgLegal (serialAt 0) = false ∧ cfgLegal (serialAt 65536) = false := by decide
theorem test_cfg_capacity : cfgLegal { Config.defaultCfg with rxMax := 0 } = false ∧
    cfgLegal { Config.defaultCfg with rxMax := 257 } = false := by decide
theorem test_cfg_codes : cfgLegal { Config.defaultCfg with cmdFade := 0x03 } = false := by decide
theorem test_cfg_strip : cfgLegal { localAt 1 with stripG := 1 } = false ∧
    cfgLegal { localAt 1 with stripB := 4 } = false ∧ cfgLegal { localAt 1 with stripR := 0 } = false ∧
    cfgLegal { localAt 1 with domain := [.bool, .byte, .byte] } = false := by decide
theorem test_cfg_fade : cfgLegal { Config.defaultCfg with localFadeLow := 76 } = false := by decide

/-! ## Words written out bit by bit from R70, R73, R74 and R80 -/

theorem test_decode_reset : decodeEvent 0b000000000000 = .ok .reset := by decide
theorem test_decode_irq : decodeEvent 0b000100000000 = .ok .irq := by decide
theorem test_decode_poll : decodeEvent 0b001000000000 = .ok .poll := by decide
theorem test_decode_rx : decodeEvent 0b001100111100 = .ok (.rx 0x3C) := by decide
theorem test_decode_local0 : decodeEvent 0b010000000000 = .ok .local0 := by decide
theorem test_decode_local1 : decodeEvent 0b010000000001 = .ok .local1 := by decide
theorem test_decode_local2 : decodeEvent 0b010000000010 = .ok .local2 := by decide
theorem test_decode_local3 : decodeEvent 0b010000000011 = .ok .local3 := by decide
theorem test_decode_local4 : decodeEvent 0b010000000100 = .ok .local4 := by decide
theorem test_decode_local5 : decodeEvent 0b010000000101 = .ok .local5 := by decide
theorem test_decode_local6 : decodeEvent 0b010000000110 = .ok .local6 := by decide
theorem test_decode_local7 : decodeEvent 0b010000000111 = .ok .local7 := by decide
theorem test_decode_setdiv : decodeEvent 0b010110000001 = .ok (.setdiv 0x81) := by decide
theorem test_decode_frame2 :
    decode Config.defaultCfg (.frame [0b00111100, 0b00000010, 0b10000000, 0b00111110]) = .ok (.frame2 2 128) := by
  decide
theorem test_decode_init :
    decode multi (.frame [0b00111100, 0b00000000, 0b00000000, 0b00111110]) = .ok .init := by decide
theorem test_decode_fade :
    decode multi (.frame [0b00111100, 0b00000100, 0b00000001, 0b00000010, 0b00001010, 0b00010100, 0b00000101,
      0b00111110]) = .ok (.fade 2 10 20 5) := by decide
theorem test_decode_setval :
    decode multi (.frame [0b00111100, 0b00000010, 0b00000010, 0b00000011, 0b11001000, 0b00111110]) =
      .ok (.setval 3 200) := by decide
theorem test_decode_setall :
    decode multi (.frame [0b00111100, 0b00000011, 0b00000011, 0b00000001, 0b00110010, 0b01000110, 0b00111110]) =
      .ok (.setall [1, 50, 70]) := by decide

/-- One table word of each format, numbered as the table numbers it. -/
theorem test_table_words : decodeTableWord 16 0x407 = some .local7 ∧ decodeTableWord 32 0x3C02803E = some (.frame2 2 128) ∧
    decodeTableWord 32 0x3C00003E = some .init ∧ decodeTableWord 64 0x3C0401020A14053E = some (.fade 2 10 20 5) ∧
    decodeTableWord 48 0x3C020203C83E = some (.setval 3 200) ∧
    decodeTableWord 56 0x3C03030132463E = some (.setall [1, 50, 70]) ∧ decodeTableWord 16 0x600 = none := by decide

/-- A word that is no instruction, one for each reason (R72, R73, R74, R76, R79; V-RF-1 to V-RF-4). -/
theorem test_decode_rejects : decodeEvent 0x600 = .error .reservedTag ∧ decodeEvent 0xF00 = .error .reservedTag ∧
    decodeEvent 0x101 = .error .strayPayload ∧ decodeEvent 0x408 = .error .strayPayload ∧
    decodeTwoField [0x3D, 1, 1, 0x3E] = .error .badStart ∧ decodeTwoField [0x3C, 1, 1, 0x3C] = .error .badEnd ∧
    decodeTwoField [0x3C, 0, 1, 0x3E] = .error .badIndex ∧ decodeTwoField [0x3C, 1, 0x3E] = .error .badLength ∧
    decodeMultiField multi [0x3D, 0, 0, 0x3E] = .error .badStart ∧
    decodeMultiField multi [0x3C, 0, 0, 0x3F] = .error .badEnd ∧
    decodeMultiField multi [0x3C, 1, 0, 0x3E] = .error .badLength ∧
    decodeMultiField multi [0x3C, 0, 9, 0x3E] = .error .unknownCommand ∧
    decodeMultiField multi [0x3C, 1, 2, 9, 0x3E] = .error .badSize := by decide

/-- From reset the next step runs the supplied word: its effect, with the input taken. -/
theorem test_fetch_setdiv : (nextOf (step (State.reset.withFetchWord 16 0x5FF))).map (fun s => (s.divN, s.inputs)) =
    some (0xFF, []) := by decide
theorem test_fetch_setall : (nextOf (step (State.reset.withFetchWord 56 0x3C03030132463E))).map shown =
    some ([1, 50, 70], [false, false, false]) := by decide

/-! ## Single steps -/

/-- V-RS-1, the registers a run can have written. -/
theorem test_reset_clears : nextOf (exec .reset { sMulti with
      tickCnt := 1, divN := 4, ch := [offChannel, fadeChannel 10 20 5, offChannel], rxState := .data, rxSize := 2
      rxCmd := 2, rxCount := 1, rxBuf := [(0, 2)], errCount := 7 }) = some { sMulti with outs := [.quiet] } := by decide
/-- V-RS-3. -/
theorem test_reset_keeps_refused :
    (nextOf (exec .reset { sTwo with refused := true })).map (·.refused) = some true := by decide
/-- V-TB-1, the third TIMER_IRQ. -/
theorem test_irq_threshold : (nextOf (exec .irq { State.resetOf (serialAt 3) with tickCnt := 2 })).map
    (fun s => (s.tickCnt, s.tickFlag)) = some (0, true) := by decide
/-- V-TB-3, the TIMER_IRQ after the divider change. -/
theorem test_irq_remainder :
    (nextOf (exec .irq { State.resetOf (serialAt 100) with tickCnt := 70, divN := 2 })).map
      (fun s => (s.tickCnt, s.tickFlag)) = some (21, true) := by decide
/-- V-TB-9. -/
theorem test_setdiv_keeps_flag : nextOf (exec (.setdiv 7) { State.resetOf (serialAt 3) with tickFlag := true }) =
    some { State.resetOf (serialAt 3) with tickFlag := true, divN := 7, outs := [.quiet] } := by decide
/-- V-EF-3, V-EF-2 (tick 3) and L1-7 in one POLL. -/
theorem test_poll_advances : (nextOf (exec .poll { sTwo with
      tickFlag := true
      ch := [fadeAt 240 255 10 250 false, fadeAt 0 10 4 8 false, flashChannel 255] })).map
    (fun s => (shown s, s.tickFlag, s.outs.map (·.consumed))) =
      some (([255, 10, 255], [true, true, true]), false, [true]) := by decide
/-- L1-8. -/
theorem test_poll_without_tick : (nextOf (exec .poll { sTwo with ch := [fadeAt 10 20 5 15 true] })).map shown =
    some ([15], [true]) := by decide
/-- L1-2, step 2. -/
theorem test_rx_bad_index : (nextOf (exec (.rx 4) { sTwo with rxState := .commandOrIndex })).map
    (fun s => (s.rxState, errsOf s, s.errCount)) = some (.wait, [2], 0) := by decide
/-- V-P2-16, the last byte: the counter wraps. -/
theorem test_rx_counter_wraps : (nextOf (exec (.rx 0) { sTwo with
      rxState := .validate, rxSize := 1, rxCmd := 1, rxCount := 1, rxBuf := [(0, 1)], errCount := 255 })).map
    (fun s => (s.rxState, errsOf s, s.errCount, s.rxBuf)) = some (.wait, [1], 0, []) := by decide
/-- V-LO-0. -/
theorem test_local0 : (nextOf (exec .local0 { sLocal with
      localCode := 1, ch := [solidChannel 255, solidChannel 0, solidChannel 0] })).map (fun s => (s.ch, s.localCode)) =
    some ([offChannel, offChannel, offChannel], 0) := by decide
/-- V-LO-11. -/
theorem test_local0_after_reset : nextOf (exec .local0 sLocal) = some { sLocal with outs := [.quiet] } := by decide
/-- V-LO-1 to V-LO-4. -/
theorem test_local1 : (nextOf (exec .local1 sLocal)).map (fun s => (shown s).1) = some [255, 0, 0] := by decide
theorem test_local2 : (nextOf (exec .local2 sLocal)).map (fun s => (shown s).1) = some [0, 255, 0] := by decide
theorem test_local3 : (nextOf (exec .local3 sLocal)).map (fun s => (shown s).1) = some [0, 0, 255] := by decide
theorem test_local4 : (nextOf (exec .local4 sLocal)).map (fun s => (shown s).1) = some [255, 255, 255] := by decide
/-- V-LO-10. -/
theorem test_local5 : (nextOf (exec .local5 (State.resetOf { localAt 4 with localFlashDiv := 2 }))).map
    (fun s => (s.ch, s.divN)) = some ([flashChannel 255, flashChannel 0, flashChannel 0], 2) := by decide
/-- V-LO-9, the last step: a new code restarts. -/
theorem test_local6 : (nextOf (exec .local6 { sLocal with
      localCode := 5, ch := List.replicate 3 { flashChannel 255 with value := 255, phase := true } })).map (·.ch) =
    some [flashChannel 0, flashChannel 255, flashChannel 0] := by decide
/-- V-LO-7. -/
theorem test_local7 : (nextOf (exec .local7 sLocal)).map (·.ch) = some (List.replicate 3 (fadeChannel 1 75 1)) := by
  decide
/-- L1-1. -/
theorem test_frame2 : (nextOf (exec (.frame2 1 1) sTwo)).map (fun s => (s.ch, s.rxState, errsOf s, dispOf s)) =
    some ([solidChannel 1, offChannel, offChannel], .wait, [0, 0, 0, 0], [.setOutput 1 1]) := by decide
/-- V-P2-2. -/
theorem test_frame2_domain : (nextOf (exec (.frame2 1 2) sTwo)).map (fun s => (s.ch, s.errCount, errsOf s)) =
    some (sTwo.ch, 0, [0, 0, 2, 1]) := by decide
/-- V-PM-24, the frame. -/
theorem test_init : (nextOf (exec .init { sMulti with divN := 2, ch := List.replicate 3 (solidChannel 1) })).map
    (fun s => (s.ch, s.divN, dispOf s)) = some (List.replicate 3 offChannel, 0, [.init]) := by decide
/-- V-PM-6. -/
theorem test_fade : (nextOf (exec (.fade 2 10 20 5) sMulti)).map (fun s => (s.ch, dispOf s)) =
    some ([offChannel, fadeChannel 10 20 5, offChannel], [.fade 2 10 20 5]) := by decide
/-- V-PM-8, and what R161 makes of the bytes after the rejected one. -/
theorem test_fade_order : (nextOf (exec (.fade 2 20 10 5) sMulti)).map (fun s => (s.ch, errsOf s)) =
    some (sMulti.ch, [0, 0, 0, 0, 0, 2, 1, 1]) := by decide
/-- V-PM-2. -/
theorem test_setval : (nextOf (exec (.setval 3 200) sMulti)).map (fun s => (s.ch, dispOf s)) =
    some ([offChannel, offChannel, solidChannel 200], [.setOutput 3 200]) := by decide
/-- V-PM-13. -/
theorem test_setall : (nextOf (exec (.setall [1, 50, 70]) sMulti)).map (fun s => (s.ch, dispOf s)) =
    some ([solidChannel 1, solidChannel 50, solidChannel 70],
      [.setOutput 1 1, .setOutput 2 50, .setOutput 3 70]) := by decide
/-- V-PM-14. -/
theorem test_setall_reserved : (nextOf (exec (.setall [1, 50, 60]) sMulti)).map (fun s => (s.ch, errsOf s)) =
    some (sMulti.ch, [0, 0, 0, 0, 0, 2, 1]) := by decide

/-- V-TB-2. -/
theorem test_threshold_table : thrEff 100 0 = 100 ∧ thrEff 100 1 = 100 ∧ thrEff 100 2 = 50 ∧ thrEff 100 3 = 33 ∧
    thrEff 100 255 = 1 ∧ thrEff 5 10 = 1 ∧ thrEff 1 0 = 1 ∧ thrEff 7 2 = 3 ∧ thrEff 65535 2 = 32767 := by decide
/-- V-EF-4, V-EF-6, V-EF-7, V-EF-9, V-EF-10 and V-EF-11, tick 1. -/
theorem test_fade_corners : advance true (fadeAt 5 5 3 5 false) = fadeAt 5 5 3 5 false ∧
    advance true (fadeAt 7 9 0 9 true) = fadeAt 7 9 0 9 true ∧ advance true (fadeAt 0 1 1 0 false) = fadeAt 0 1 1 1 true ∧
    advance true (fadeAt 10 20 5 100 false) = fadeAt 10 20 5 20 true ∧
    advance true (fadeAt 10 20 5 20 false) = fadeAt 10 20 5 15 true ∧
    advance true (fadeAt 10 20 5 10 true) = fadeAt 10 20 5 15 false := by decide
/-- V-OA-3, V-OA-4 and V-OA-5. -/
theorem test_output_invalid : setOutput 1 2 sTwo .quiet = (sTwo, { StepOut.quiet with err := .outputInvalid 1 2 }) ∧
    setOutput 0 5 sTwo .quiet = (sTwo, { StepOut.quiet with err := .outputInvalid 0 5 }) ∧
    setOutput 4 5 sTwo .quiet = (sTwo, { StepOut.quiet with err := .outputInvalid 4 5 }) := by decide
/-- V-RF-5 to V-RF-8. -/
theorem test_refused : nextOf (exec (.rx 0x3C) sLocal) = some { sLocal with refused := true } ∧
    nextOf (exec .local1 sTwo) = some { sTwo with refused := true } ∧
    (nextOf (exec .irq (State.resetOf (serialAt 0)))).map (·.refused) = some true ∧
    (nextOf (exec (.rx 0) { sTwo with rxState := .unused5 })).map (fun s => (s.refused, s.rxState)) =
      some (true, .unused5) := by decide

/-! ## Witnesses: a state and operands that meet the hypotheses of each statement -/

/-- A byte stored by DATA is still to come; output 2 named (TWO_FIELD). -/
def sData : State := { sTwo with rxState := .data, rxSize := 1, rxCmd := 2 }

/-- `setval 3, 200` received up to its terminator. -/
def sValidate : State :=
  { sMulti with rxState := .validate, rxSize := 2, rxCmd := 2, rxCount := 2, rxBuf := [(0, 3), (1, 200)] }

/-- A configuration that breaks R8 (b). -/
def sIll : State := State.resetOf (serialAt 0)

theorem blockInv_of_off (s : State) (h : cfgLegal s.cfg = true) (hc : s.ch = List.replicate s.cfg.nOut offChannel)
    (hp : parserGood s) (hm : Memory.wf s.cfg.rxMax s.rxBuf = true) (ht : s.tickCnt.toNat < s.cfg.tickThreshold) :
    BlockInv s := ⟨h, channelsGood_of_off s hc, hp, hm, ht⟩

theorem inv_sTwo : BlockInv sTwo := blockInv_of_off _ (by decide) rfl ⟨rfl, rfl, rfl, rfl⟩ rfl (by decide)
theorem inv_sMulti : BlockInv sMulti := blockInv_of_off _ (by decide) rfl ⟨rfl, rfl, rfl, rfl⟩ rfl (by decide)
theorem inv_sLocal : BlockInv sLocal := blockInv_of_off _ (by decide) rfl ⟨rfl, rfl, rfl, rfl⟩ rfl (by decide)
theorem inv_sData : BlockInv sData :=
  blockInv_of_off _ (by decide) rfl ⟨⟨⟨by decide, rfl⟩, fun k hk => absurd hk (Nat.not_lt_zero k)⟩, by decide⟩ rfl
    (by decide)
theorem inv_sValidate : BlockInv sValidate :=
  blockInv_of_off _ (by decide) rfl
    ⟨⟨⟨by decide, .setVal, by decide, by decide⟩, fun k hk =>
      match k, hk with
      | 0, _ => by decide
      | 1, _ => by decide
      | k + 2, hk => absurd hk (by show ¬ (k + 2 < 2); omega)⟩, by decide⟩
    (by decide) (by decide)

theorem witness_ResetWritesEveryResetValue : cfgLegal sTwo.cfg = true ∧ cfgLegal sLocal.cfg = true := by decide
theorem witness_PowerOnStateIsTheResetState : cfgLegal Config.defaultCfg = true ∧ cfgLegal (localAt 65535) = true := by
  decide
theorem witness_ConfigurationLegality : (localAt 1).control = .localTable ∧ cfgLegal (localAt 1) = true := by decide
theorem witness_RefusedEventsOnlySetTheMark : cfgLegal sIll.cfg = false ∧ sTwo.cfg.control = .serial ∧
    isSerial (.rx 0x3C) = true ∧ sLocal.cfg.control = .localTable ∧ 6 ≤ (tagOf 0x600).toNat ∧ 6 ≤ (tagOf 0xFFF).toNat ∧
    ((tagOf 0x001).toNat ≤ 2 ∧ payloadOf 0x001 ≠ 0) ∧ ((tagOf 0x2FF).toNat ≤ 2 ∧ payloadOf 0x2FF ≠ 0) ∧
    (tagOf 0x408 = 4 ∧ 8 ≤ (payloadOf 0x408).toNat) := by decide
theorem witness_RefusedEventsOnlySetTheMark_word : { sTwo with inputs := [.event 0x600] }.inputs = .event 0x600 :: [] ∧
    { sTwo with rxState := .unused7 }.rxState = .unused7 := ⟨rfl, rfl⟩
theorem witness_RefusedEventsOnlySetTheMark_sticky :
    step { sTwo with refused := true } = .next { sTwo with refused := true } := rfl
theorem witness_ConfigurationNeverChanges : exec (.setdiv 255) sTwo = .next { sTwo with divN := 255, outs := [.quiet] } :=
  rfl
theorem witness_StepRunsTheDecodedInstruction :
    { sTwo with inputs := [.event 0x33C, .event 0x100] }.inputs = .event 0x33C :: [.event 0x100] ∧
      decode sTwo.cfg (.event 0x33C) = .ok (.rx 0x3C) ∧ decode sTwo.cfg (.event 0x600) = .error .reservedTag := by decide
/-- A two-field frame with INDEX 0 decodes to nothing; its bytes are received, with the errors of R162 and R161. -/
theorem witness_StepRunsTheDecodedInstruction_frame :
    decode sTwo.cfg (.frame [0x3C, 0, 1, 0x3E]) = .error .badIndex ∧
    (nextOf (step { sTwo with inputs := [.frame [0x3C, 0, 1, 0x3E]] })).map (fun s => (errsOf s, s.ch, s.inputs)) =
      some ([0, 2, 1, 1], sTwo.ch, []) := by decide
theorem witness_IdleCycleChangesNothing : sTwo.inputs = [] := rfl
theorem witness_DecodeEncodeRoundTrip : cfgLegal multi = true ∧ (Instr.setall [1, 255, 0]).wellFormed multi = true ∧
    (Instr.fade 3 0 255 0).wellFormed multi = true ∧ Instr.init.wellFormed multi = true ∧
    (Instr.setval 1 1).wellFormed multi = true ∧ (Instr.frame2 3 255).wellFormed Config.defaultCfg = true := by decide
theorem witness_EncodeDecodeRoundTrip : decode multi (.frame [0x3C, 2, 2, 3, 200, 0x3E]) = .ok (.setval 3 200) ∧
    decode multi (.event 0x5FF) = .ok (.setdiv 255) := by decide
theorem witness_FrameIsItsReceivedBytes : encode sTwo.cfg (.frame2 2 9) = .frame [0x3C, 2, 9, 0x3E] := by decide

/-- Threshold 1, and the top of the counter under the largest threshold (V-TB-7). -/
theorem witness_TimerIrqCountsAndFlags :
    (cfgLegal sTwo.cfg = true ∧ 1 = max 1 (sTwo.cfg.tickThreshold / 1) ∧ 1 = sTwo.tickCnt.toNat + 1) ∧
    cfgLegal (serialAt 65535) = true ∧
    65535 = { State.resetOf (serialAt 65535) with tickCnt := 65534 }.tickCnt.toNat + 1 := by decide
theorem witness_TimerIrqCountsAndFlags_writer :
    exec .irq (State.resetOf (serialAt 3)) = .next { State.resetOf (serialAt 3) with tickCnt := 1, outs := [.quiet] } ∧
      (1 : BitVec 16) ≠ 0 := ⟨rfl, by decide⟩
theorem witness_EffectiveThreshold : 1 ≤ 1 ∧ 1 ≤ 65535 ∧ (1 : Byte) ≠ 0 ∧ (255 : Byte) ≠ 0 := by decide
/-- Counts one and two below the new threshold 50, and the example of R102. -/
theorem witness_SetDivTakesEffectAtTheNextIrq : cfgLegal (serialAt 100) = true ∧
    ([49, 48, 70].map fun c => (nextOf (execAll [.setdiv 2, .irq] { State.resetOf (serialAt 100) with tickCnt := c })).map
      fun s => (s.tickCnt, s.tickFlag)) = [some (0, true), some (49, false), some (21, true)] := by decide
theorem witness_TicksCoalesce : cfgLegal (serialAt 3) = true ∧
    { State.resetOf (serialAt 3) with tickCnt := 2 }.tickCnt.toNat < thrEff (serialAt 3).tickThreshold 0 := by decide
theorem witness_TickRate : cfgLegal (serialAt 7) = true ∧ 3 = thrEff (serialAt 7).tickThreshold 2 ∧
    { State.resetOf (serialAt 7) with tickCnt := 2, divN := 2 }.tickCnt.toNat < 3 := by decide
theorem witness_SelectionsWriteEveryField : 1 ≤ 1 ∧ 1 ≤ sTwo.cfg.nOut ∧ 1 ≤ 3 ∧ 3 ≤ sTwo.cfg.nOut := by decide
theorem witness_AdvanceByMode : offChannel.mode = .off ∧ (solidChannel 255).mode = .solid ∧
    (flashChannel 255).mode = .flash ∧ { flashChannel 255 with phase := true, value := 255 }.mode = .flash := by decide

/-- The direction and the clamped step of FADE(240,255,10) at 250 rising, at the ceiling still rising, and at the floor
still falling (V-EF-3, V-EF-10, V-EF-11). -/
theorem witness_FadeStep : (fadeAt 240 255 10 250 false).mode = .fade ∧
    false = fadeDirection (fadeAt 240 255 10 250 false) ∧ (255 : Int) = min (max (250 + 10) 240) 255 ∧
    true = fadeDirection (fadeAt 10 20 5 20 false) ∧ (15 : Int) = min (max (20 - 5) 10) 20 ∧
    false = fadeDirection (fadeAt 10 20 5 10 true) ∧ (15 : Int) = min (max (10 + 5) 10) 20 := by decide
theorem witness_PollConsumesAndAdvances : cfgLegal { sLocal with tickFlag := true }.cfg = true := by decide

/-- Two rounds at threshold 2, with extra POLLs after some TIMER_IRQs; from a count of 1. -/
theorem witness_PollingIntervalIndependence : cfgLegal (serialAt 2) = true ∧ 2 = thrEff (serialAt 2).tickThreshold 0 ∧
    { State.resetOf (serialAt 2) with tickCnt := 1 }.tickCnt.toNat < 2 ∧ (State.resetOf (serialAt 2)).tickFlag = false ∧
    ∀ r ∈ [[0, 0], [1, 5]], r.length = 2 := by decide
theorem witness_FadeNeverLeavesItsBounds : (fadeAt 1 75 1 75 false).mode = .fade ∧
    (fadeAt 1 75 1 75 false).low.toNat ≤ (fadeAt 1 75 1 75 false).value.toNat ∧
    (fadeAt 1 75 1 75 false).value.toNat ≤ (fadeAt 1 75 1 75 false).high.toNat ∧
    (afterTicks 1 (fadeAt 1 75 1 75 false) = fadeAt 1 75 1 74 true ∧
      afterTicks 2 (fadeAt 1 75 1 75 false) = fadeAt 1 75 1 73 true) ∧
    (fadeChannel 0 0 255).low.toNat ≤ (fadeChannel 0 0 255).value.toNat := by decide

/-- The scenario of L1-3 (position 24 of a cycle that divides), and both ends of its falling run (positions 74, 147). -/
theorem witness_FadeClosedForm_divides : (fadeAt 1 75 1 25 false).mode = .fade ∧ 74 = (75 - 1) / 1 ∧ 1 < 75 ∧
    (75 - 1) % 1 = 0 ∧ (24 ≤ 74 ∧ (fadeAt 1 75 1 25 false).value.toNat = 1 + 24 * 1 ∧
      (fadeAt 1 75 1 25 false).phase = false) ∧
    ((fadeAt 1 75 1 75 true).value.toNat = 1 + (2 * 74 - 74) * 1 ∧ (fadeAt 1 75 1 75 true).phase = true) ∧
    (74 ≤ 147 ∧ 147 < 2 * 74 ∧ (fadeAt 1 75 1 2 true).value.toNat = 1 + (2 * 74 - 147) * 1) := by decide
/-- V-EF-2 and V-EF-4: a step that does not divide the span, at both ends of both runs, and a span of 0. -/
theorem witness_FadeClosedForm_others : (fadeAt 0 10 4 0 false).mode = .fade ∧ 2 = (10 - 0) / 4 ∧ (10 - 0) % 4 ≠ 0 ∧
    (0 ≤ 2 ∧ (fadeAt 0 10 4 0 false).value.toNat = 0 + 0 * 4) ∧ (2 ≤ 2 ∧ (fadeAt 0 10 4 8 false).value.toNat = 0 + 2 * 4) ∧
    ((fadeAt 0 10 4 10 true).value.toNat = 10 - (3 - (2 + 1)) * 4 ∧ (fadeAt 0 10 4 10 true).phase = true) ∧
    (5 < 2 * (2 + 1) ∧ (fadeAt 0 10 4 2 true).value.toNat = 10 - (5 - (2 + 1)) * 4) ∧
    ((fadeAt 5 5 3 5 false).value.toNat = 5 ∧ 0 = (5 - 5) / 3) := by decide

theorem witness_RepeatedLocalCodeChangesNothing : cfgLegal sLocal.cfg = true ∧ sLocal.cfg.control = .localTable ∧
    sLocal.localCode = 0 ∧ { sLocal with localCode := 7 }.localCode = 7 := by decide
theorem witness_LocalOffTurnsTheStripOff : cfgLegal sLocal.cfg = true ∧ sLocal.cfg.control = .localTable ∧
    { sLocal with localCode := 7 }.localCode ≠ 0 := by decide
theorem witness_LocalSolidColours : cfgLegal sLocal.cfg = true ∧ sLocal.cfg.control = .localTable ∧
    sLocal.localCode ≠ 1 ∧ sLocal.localCode ≠ 2 ∧ sLocal.localCode ≠ 3 ∧ sLocal.localCode ≠ 4 := by decide
theorem witness_LocalFlashColours : cfgLegal sLocal.cfg = true ∧ sLocal.cfg.control = .localTable ∧
    sLocal.localCode ≠ 5 ∧ sLocal.localCode ≠ 6 := by decide
theorem witness_LocalFadeKeepsTheStripEqual : cfgLegal sLocal.cfg = true ∧ sLocal.cfg.control = .localTable ∧
    sLocal.localCode ≠ 7 ∧ sLocal.ch.length = sLocal.cfg.nOut := by decide

theorem witness_RxInWait : cfgLegal sTwo.cfg = true ∧ sTwo.cfg.control = .serial ∧ sTwo.rxState = .wait ∧
    parserClear sTwo ∧ (0x3D : Byte) ≠ 0x3C ∧ (0x3B : Byte) ≠ 0x3C :=
  ⟨by decide, rfl, rfl, ⟨rfl, rfl, rfl, rfl⟩, by decide, by decide⟩
theorem witness_RxIndexByte : cfgLegal sTwo.cfg = true ∧ sTwo.cfg.control = .serial ∧ sTwo.cfg.protocol = .twoField ∧
    { sTwo with rxState := .commandOrIndex }.rxState = .commandOrIndex ∧
    (1 ≤ (1 : Byte).toNat ∧ (1 : Byte).toNat ≤ sTwo.cfg.nOut) ∧ (3 : Byte).toNat ≤ sTwo.cfg.nOut ∧
    sTwo.cfg.nOut < (4 : Byte).toNat := by decide
theorem witness_RxSizeByte : cfgLegal sMulti.cfg = true ∧ sMulti.cfg.control = .serial ∧
    sMulti.cfg.protocol = .multiField ∧ { sMulti with rxState := .size }.rxState = .size ∧
    (7 : Byte).toNat < sMulti.cfg.rxMax ∧ sMulti.cfg.rxMax ≤ (8 : Byte).toNat := by decide
/-- Each command with its payload size, and V-PM-19 for the rejection. -/
theorem witness_RxCommandByte : cfgLegal sMulti.cfg = true ∧ sMulti.cfg.control = .serial ∧
    sMulti.cfg.protocol = .multiField ∧ { sMulti with rxState := .commandOrIndex, rxSize := 3 }.rxState = .commandOrIndex ∧
    (0x00 : Byte) = sMulti.cfg.cmdInit ∧ (0x01 : Byte) = sMulti.cfg.cmdFade ∧ (0x02 : Byte) = sMulti.cfg.cmdSetVal ∧
    ((0x03 : Byte) = sMulti.cfg.cmdSetValAll ∧ (3 : Byte).toNat = sMulti.cfg.nOut) ∧ (3 : Byte).toNat ≠ 2 := by decide
theorem witness_RxDataByte : cfgLegal sData.cfg = true ∧ sData.cfg.control = .serial ∧ sData.rxState = .data ∧
    (sData.cfg.reservedPolicy = .reject ∧ (0x3E : Byte) = 0x3E) ∧
    fieldValid sData.cfg sData.rxCmd sData.rxBuf sData.rxCount.toNat 255 = true ∧
    fieldValid sData.cfg 1 sData.rxBuf sData.rxCount.toNat 2 = false ∧ sData.rxCount.toNat < 255 ∧
    ¬(sData.cfg.reservedPolicy = .reject ∧ ((255 : Byte) = 0x3C ∨ (255 : Byte) = 0x3E)) ∧
    sData.rxCount.toNat < sData.cfg.rxMax ∧ Memory.wf sData.cfg.rxMax sData.rxBuf = true := by decide
theorem witness_FieldValidatorTable : cfgLegal { Config.defaultCfg with rxMax := 1 } = true ∧
    Config.defaultCfg.protocol = .twoField ∧ cfgLegal { multi with rxMax := 2 } = true ∧
    multi.protocol = .multiField ∧ 0 < multi.nOut ∧ 2 < multi.nOut := by decide
theorem witness_DomainTest : cfgLegal Config.defaultCfg = true ∧ 1 ≤ (1 : Byte).toNat ∧
    Config.defaultCfg.domain[(1 : Byte).toNat - 1]? = some .bool ∧ (3 : Byte).toNat ≤ Config.defaultCfg.nOut ∧
    Config.defaultCfg.domain[(3 : Byte).toNat - 1]? = some .byte := by decide
theorem witness_RxInValidate : cfgLegal sValidate.cfg = true ∧ sValidate.cfg.control = .serial ∧
    sValidate.rxState = .validate ∧ (0x3C : Byte) ≠ 0x3E ∧
    dispatch sValidate .quiet = (selectSolid 3 200 sValidate, { StepOut.quiet with disp := [.setOutput 3 200] }) := by
  decide
/-- A state of a run, and the hand-built states that R201, R207 and R50 (a) leave without a command, an output or a byte
(log entry 9): an `rx_cmd` that is no code dispatches nothing, FADE on output 0 writes no channel, a byte beyond the buffer
is counted but stored nowhere. -/
theorem witness_RxAlwaysCompletes : BlockInv sValidate ∧ sValidate.cfg.control = .serial ∧
    nextOf (exec (.rx 0x3E) { sValidate with rxCmd := 0x77, rxSize := 0, rxCount := 0, rxBuf := [] }) =
      some { sMulti with outs := [.quiet] } ∧
    nextOf (exec (.rx 0x3E) { sValidate with rxCmd := 1, rxBuf := [(1, 10), (2, 20), (3, 5)] }) =
      some { sMulti with outs := [{ StepOut.quiet with disp := [.fade 0 10 20 5] }] } ∧
    nextOf (exec (.rx 7) { sMulti with
        cfg := { multi with rxMax := 3 }, rxState := .data, rxSize := 9, rxCmd := 1, rxCount := 3 }) =
      some { sMulti with
        cfg := { multi with rxMax := 3 }, rxState := .data, rxSize := 9, rxCmd := 1, rxCount := 4, outs := [.quiet] } :=
  ⟨inv_sValidate, rfl, by decide, by decide, by decide⟩
/-- `setval 3, 200` after a discarded byte and a broken frame. -/
theorem witness_OnlyValidFramesDispatch : cfgLegal sMulti.cfg = true ∧ sMulti.cfg.control = .serial ∧
    sMulti.rxState = .wait ∧ parserClear sMulti ∧
    (nextOf (receiveFrame ([0x00, 0x3C, 0x03, 0x02, 0x3C, 0x02, 0x02, 0x03, 0xC8] ++ [0x3E]) sMulti)).map
      (fun t => t.outs.getLast?.map (·.disp)) = some (some [.setOutput 3 200]) :=
  ⟨by decide, rfl, rfl, ⟨rfl, rfl, rfl, rfl⟩, by decide⟩
theorem witness_HalfReceivedFramePersists :
    (∀ i ∈ [Instr.irq, .poll, .setdiv 2, .local1], isSerial i = false ∧ i ≠ .reset) ∧
      (nextOf (execAll [.irq, .poll, .setdiv 2, .local1] sData)).isSome = true := by decide
theorem witness_MissingTerminatorCountsOnce : cfgLegal sMulti.cfg = true ∧ sMulti.cfg.control = .serial ∧
    sMulti.rxState = .wait ∧ parserClear sMulti ∧ Instr.init.wellFormed sMulti.cfg = true ∧
    encode sMulti.cfg .init = .frame [0x3C, 0, 0, 0x3E] ∧ (0x3C : Byte) ≠ 0x3E :=
  ⟨by decide, rfl, rfl, ⟨rfl, rfl, rfl, rfl⟩, by decide, by decide, by decide⟩
theorem witness_EndBytesResynchronise : BlockInv sValidate ∧ sValidate.cfg.control = .serial ∧ sValidate.cfg.nOut = 3 ∧
    sValidate.cfg.rxMax = 8 ∧ BlockInv sData := ⟨inv_sValidate, rfl, rfl, rfl, inv_sData⟩

theorem witness_SetOutputContract : ((1 ≤ (1 : Byte).toNat ∧ (1 : Byte).toNat ≤ sTwo.cfg.nOut) ∧
      dom sTwo.cfg 1 1 = true) ∧ ((3 : Byte).toNat ≤ sTwo.cfg.nOut ∧ dom sTwo.cfg 3 255 = true) ∧
    ¬(1 ≤ (0 : Byte).toNat) ∧ ¬((4 : Byte).toNat ≤ sTwo.cfg.nOut) ∧ dom sTwo.cfg 1 2 = false := by decide
theorem witness_Frame2SetsTheOutput : cfgLegal sTwo.cfg = true ∧ sTwo.cfg.control = .serial ∧
    sTwo.cfg.protocol = .twoField ∧ sTwo.rxState = .wait ∧ parserClear sTwo ∧ 1 ≤ (3 : Byte).toNat ∧
    (3 : Byte).toNat ≤ sTwo.cfg.nOut ∧ dom sTwo.cfg 3 0x3D = true ∧ (0x3D : Byte) ≠ 0x3C ∧ (0x3D : Byte) ≠ 0x3E :=
  ⟨by decide, rfl, rfl, rfl, ⟨rfl, rfl, rfl, rfl⟩, by decide, by decide, by decide, by decide, by decide⟩
theorem witness_InitTurnsEveryOutputOff : cfgLegal sMulti.cfg = true ∧ sMulti.cfg.control = .serial ∧
    sMulti.cfg.protocol = .multiField ∧ sMulti.rxState = .wait ∧ parserClear sMulti ∧
    sMulti.ch.length = sMulti.cfg.nOut := ⟨by decide, rfl, rfl, rfl, ⟨rfl, rfl, rfl, rfl⟩, rfl⟩
/-- The other hypotheses are those of `witness_InitTurnsEveryOutputOff`. -/
theorem witness_FadeFrameSelectsTheFade : (Instr.fade 2 10 20 5).wellFormed sMulti.cfg = true ∧
    (Instr.fade 1 0 1 0).wellFormed sMulti.cfg = true ∧ (Instr.fade 3 255 255 255).wellFormed sMulti.cfg = true := by
  decide
theorem witness_SetValSetsTheOutput : (Instr.setval 1 1).wellFormed sMulti.cfg = true ∧
    (Instr.setval 3 255).wellFormed sMulti.cfg = true := by decide
theorem witness_SetAllSetsEveryOutput : (Instr.setall [0, 0, 0]).wellFormed sMulti.cfg = true ∧
    (Instr.setall [1, 255, 255]).wellFormed sMulti.cfg = true := by decide

/-- A wrong terminator, an out-of-range size, and (from a hand-built state) an invalid output. -/
theorem witness_ParserErrorsRecoverToWait :
    (nextOf (exec (.rx 0) sValidate)).map (·.outs) = some [{ StepOut.quiet with err := .frameSyntax 0 }] ∧
    (nextOf (exec (.rx 8) { sMulti with rxState := .size })).map (·.outs) =
      some [{ StepOut.quiet with err := .bufferOverflow 8 }] ∧
    (setOutput 4 5 sTwo .quiet).2.err ≠ .none ∧
    (nextOf (exec (.rx 0x3E) { sValidate with rxBuf := [(0, 4), (1, 5)] })).map (·.outs) =
      some [{ StepOut.quiet with err := .outputInvalid 4 5 }] := by decide
theorem witness_OnlyTheEndByteDispatches :
    (nextOf (exec (.rx 0x3E) sValidate)).map (fun s => (s.ch != sValidate.ch, dispOf s)) =
      some (true, [.setOutput 3 200]) := by decide
/-- A step that writes each register of R37. -/
theorem witness_WriteAccessByEvent :
    (nextOf (exec .irq { State.resetOf (serialAt 2) with tickCnt := 1 })).map
      (fun s => (s.tickCnt, s.tickFlag)) = some (0, true) ∧
    (nextOf (exec .poll { sTwo with tickFlag := true })).map (·.tickFlag) = some false ∧
    (nextOf (exec .init { sMulti with divN := 9 })).map (·.divN) = some 0 ∧
    (nextOf (exec .local1 sLocal)).map (·.localCode) = some 1 ∧
    (nextOf (exec (.rx 0x3C) sTwo)).map (·.rxState) = some .commandOrIndex := by decide
theorem witness_ResetStateSatisfiesTheInvariant : cfgLegal multi = true ∧ cfgLegal (localAt 1) = true := by decide
/-- A TIMER_IRQ from reset, and the END byte of a frame (its hypotheses but for the state's input are those of
`inv_sValidate`). -/
theorem witness_EveryStepKeepsTheInvariant : BlockInv { sTwo with inputs := [.event 0x100] } ∧
    step { sTwo with inputs := [.event 0x100] } = .next { sTwo with tickFlag := true, outs := [.quiet] } ∧
    (nextOf (step { sValidate with inputs := [.event 0x33E] })).map (fun s => (s.ch != sValidate.ch, s.rxState)) =
      some (true, .wait) :=
  ⟨blockInv_of_off _ (by decide) rfl ⟨rfl, rfl, rfl, rfl⟩ rfl (by decide), rfl, by decide⟩
theorem witness_DutyStaysInItsDomain : cfgLegal multi = true ∧ Reachable multi { sMulti with inputs := [.event 0x100] } ∧
    multi.domain[1 - 1]? = some .bool ∧ multi.domain[3 - 1]? = some .byte :=
  ⟨by decide, .supply sMulti _ .reset, rfl, rfl⟩

end Sys2Proof.Tests
end

section
/-! SUPPORT. The statements of 00_scope.md. Every instruction answers a next state in the frame `ScopeFrame` (its
configuration and its inputs those before, the sticky mark never cleared), said once for all instructions
(`exec_answers`) and for the step (`step_answers`). The refused cases of R12 follow from what each shared operation does
where it refuses. -/

namespace Sys2Proof.Machine

/-! ### What every event leaves: the configuration, the inputs still to come, and a mark that is set -/

/-- What no event touches: the configuration (R252 (a)), the inputs still to come, and the sticky mark once it is set
(R38). -/
structure ScopeFrame (s t : State) : Prop where
  cfg : t.cfg = s.cfg
  inputs : t.inputs = s.inputs
  mark : s.refused = true → t.refused = true

theorem ScopeFrame.refl (s : State) : ScopeFrame s s := ⟨rfl, rfl, id⟩

theorem ScopeFrame.trans {s t u : State} (h₁ : ScopeFrame s t) (h₂ : ScopeFrame t u) : ScopeFrame s u :=
  ⟨h₂.cfg.trans h₁.cfg, h₂.inputs.trans h₁.inputs, h₂.mark ∘ h₁.mark⟩

/-- An outcome that is a next state inside the frame of `s`: neither a fault nor a lack of meaning (R226). -/
def AnswersFrom (s : State) (o : Host.Outcome State Fault Refusal) : Prop := ∃ t, o = .next t ∧ ScopeFrame s t

theorem AnswersFrom.frame {s t : State} {o : Host.Outcome State Fault Refusal} (h : AnswersFrom s o)
    (ht : o = .next t) : ScopeFrame s t := by
  obtain ⟨u, hu, hf⟩ := h
  cases hu.symm.trans ht
  exact hf

theorem refuseEvent_answers (s : State) : AnswersFrom s (refuseEvent s) := ⟨_, rfl, rfl, rfl, fun _ => rfl⟩

theorem emit_answers (o : StepOut) {s t : State} (h : ScopeFrame s t) : AnswersFrom s (.next (emit o t)) :=
  ⟨_, rfl, h.cfg, h.inputs, h.mark⟩

theorem underLegalCfg_answers {s : State} {body : Host.Outcome State Fault Refusal} (h : AnswersFrom s body) :
    AnswersFrom s (underLegalCfg s body) := by
  unfold underLegalCfg
  split
  · exact h
  · exact refuseEvent_answers s

/-- LOCAL answers in the frame when the row it applies stays in it (R134). -/
theorem selectLocal_answers (c : BitVec 3) (row : State → State) (s : State) (hrow : ∀ u, ScopeFrame u (row u)) :
    AnswersFrom s (selectLocal c row s) := by
  refine underLegalCfg_answers ?_
  split
  · exact refuseEvent_answers s
  · split
    · exact emit_answers _ (.refl s)
    · obtain ⟨hcfg, hinputs, hmark⟩ := hrow { s with localCode := c }
      exact emit_answers _ ⟨hcfg, hinputs, hmark⟩

theorem stripOff_frame (s : State) : ScopeFrame s (stripOff s) := ⟨rfl, rfl, id⟩

theorem stripSolid_frame (r g b : Byte) (s : State) : ScopeFrame s (stripSolid r g b s) := ⟨rfl, rfl, id⟩

theorem stripFlash_frame (r g b : Byte) (s : State) : ScopeFrame s (stripFlash r g b s) := ⟨rfl, rfl, id⟩

theorem stripFade_frame (s : State) : ScopeFrame s (stripFade s) := ⟨rfl, rfl, id⟩

/-- Each of the four things an RX can have done stays in the frame. -/
theorem RxEffect.frame {b : Byte} {s t : State} (h : RxEffect b s t) : ScopeFrame s t := by
  cases h with
  | refused => exact ⟨rfl, rfl, fun _ => rfl⟩
  | error e _ => exact ⟨by simp [afterError], by simp [afterError], by simp [afterError]⟩
  | moved _ hm => rw [hm]; exact ⟨rfl, rfl, id⟩
  | dispatched _ _ => exact ⟨by simp, by simp, by simp⟩

theorem receive_answers (b : Byte) (s : State) : AnswersFrom s (receive b s) := by
  obtain ⟨t, ht⟩ := receive_next b s
  exact ⟨t, ht, (receive_effect b s t ht).frame⟩

theorem receiveFrame_answers (bytes : List Byte) (s : State) : AnswersFrom s (receiveFrame bytes s) := by
  obtain ⟨t, ht⟩ := receiveAll_next bytes { s with outs := [] }
  refine ⟨t, ht, receiveAll_keeps (ScopeFrame s) (fun b u v huv hu => ?_) (fun u o hu => ?_) bytes _ t ht ?_⟩
  · exact hu.trans (receive_effect b u v huv).frame
  · exact ⟨hu.cfg, hu.inputs, hu.mark⟩
  · exact ⟨rfl, rfl, id⟩

/-- Every instruction answers a next state in the frame, from every state (R12, R226, R252 (a)). -/
theorem exec_answers (i : Instr) (s : State) : AnswersFrom s (exec i s) := by
  cases i with
  | reset => exact underLegalCfg_answers (emit_answers _ ⟨rfl, rfl, id⟩)
  | irq => exact underLegalCfg_answers (emit_answers _ ⟨rfl, rfl, id⟩)
  | poll => exact underLegalCfg_answers (emit_answers _ ⟨rfl, rfl, id⟩)
  | setdiv n => exact underLegalCfg_answers (emit_answers _ ⟨rfl, rfl, id⟩)
  | local0 => exact selectLocal_answers _ _ s stripOff_frame
  | local1 => exact selectLocal_answers _ _ s (stripSolid_frame _ _ _)
  | local2 => exact selectLocal_answers _ _ s (stripSolid_frame _ _ _)
  | local3 => exact selectLocal_answers _ _ s (stripSolid_frame _ _ _)
  | local4 => exact selectLocal_answers _ _ s (stripSolid_frame _ _ _)
  | local5 => exact selectLocal_answers _ _ s (stripFlash_frame _ _ _)
  | local6 => exact selectLocal_answers _ _ s (stripFlash_frame _ _ _)
  | local7 => exact selectLocal_answers _ _ s stripFade_frame
  | rx b => exact receive_answers b s
  | frame2 i v => exact receiveFrame_answers _ s
  | init => exact receiveFrame_answers _ s
  | fade i lo hi st => exact receiveFrame_answers _ s
  | setval i v => exact receiveFrame_answers _ s
  | setall vs => exact receiveFrame_answers _ s

/-! ### One step -/

theorem step_of_no_input {s : State} (h : s.inputs = []) : step s = .next s := by
  unfold step
  rw [h]

theorem step_of_decode_ok {s : State} {x : Input} {rest : List Input} {i : Instr} (h : s.inputs = x :: rest)
    (hd : decode s.cfg x = .ok i) : step s = exec i { s with inputs := rest } := by
  simp [step, takeInput, h, hd]

theorem step_of_decode_error {s : State} {x : Input} {rest : List Input} {e : DecodeError} (h : s.inputs = x :: rest)
    (hd : decode s.cfg x = .error e) : step s = undecoded x { s with inputs := rest } := by
  simp [step, takeInput, h, hd]

theorem undecoded_answers (x : Input) (s : State) : AnswersFrom s (undecoded x s) := by
  cases x with
  | event w => exact refuseEvent_answers s
  | frame bytes => exact receiveFrame_answers bytes s

/-- Every step answers a next state, in the frame of the state with its input taken (R12, R226). -/
theorem step_answers (s : State) : AnswersFrom { s with inputs := s.inputs.tail } (step s) := by
  cases h : s.inputs with
  | nil => exact ⟨s, step_of_no_input h, rfl, h, id⟩
  | cons x rest =>
    cases hd : decode s.cfg x with
    | ok i =>
      rw [step_of_decode_ok h hd]
      exact exec_answers i _
    | error e =>
      rw [step_of_decode_error h hd]
      exact undecoded_answers x _

/-! ### Where an event is refused -/

/-- Under an ill-formed configuration the guard refuses, whatever it guards (R12). -/
theorem underLegalCfg_of_illegal {s : State} (h : cfgLegal s.cfg = false) (body : Host.Outcome State Fault Refusal) :
    underLegalCfg s body = refuseEvent s := by
  simp [underLegalCfg, h]

/-- A refusal inside the guard is a refusal, whether the configuration is well-formed or not. -/
theorem underLegalCfg_refuseEvent (s : State) : underLegalCfg s (refuseEvent s) = refuseEvent s := ite_self _

/-- LOCAL is refused with the serial interface connected (R12). -/
theorem selectLocal_of_serial (c : BitVec 3) (row : State → State) {s : State} (h : s.cfg.control = .serial) :
    selectLocal c row s = refuseEvent s := by
  unfold selectLocal
  rw [h]
  exact underLegalCfg_refuseEvent s

/-- RX is refused in an unused parser state (R160), whatever the configuration. -/
theorem receive_of_unused (b : Byte) {s : State}
    (h : s.rxState = .unused5 ∨ s.rxState = .unused6 ∨ s.rxState = .unused7) : receive b s = refuseEvent s := by
  have hstate : rxByState b s = refuseEvent s := by
    rcases h with h | h | h <;> simp [rxByState, h]
  unfold receive
  rw [hstate]
  split <;> exact underLegalCfg_refuseEvent s

/-- Where RX is refused, the RX events of one byte or more set the mark and add no output record (R12, R38). -/
theorem receiveAll_refused (bs : List Byte) (s : State) (hne : bs ≠ [])
    (h : cfgLegal s.cfg = false ∨ s.cfg.control = .localTable) :
    receiveAll bs s = .next { s with refused := true } := by
  induction bs generalizing s with
  | nil => exact absurd rfl hne
  | cons b bs ih =>
    rw [receiveAll_cons b bs s _ (receive_refused b s h), List.append_nil]
    cases bs with
    | nil => rfl
    | cons c cs => exact ih _ (List.cons_ne_nil _ _) h

theorem receiveFrame_refused (bytes : List Byte) (s : State) (hne : bytes ≠ [])
    (h : cfgLegal s.cfg = false ∨ s.cfg.control = .localTable) : receiveFrame bytes s = refuseEvent s :=
  receiveAll_refused bytes _ hne h

/-- A serial instruction is refused where RX is (R12, R81). -/
theorem exec_serial_refused (i : Instr) (s : State) (hi : isSerial i = true)
    (h : cfgLegal s.cfg = false ∨ s.cfg.control = .localTable) : exec i s = refuseEvent s := by
  cases i with
  | rx b => exact receive_refused b s h
  | frame2 i v => exact receiveFrame_refused _ s (List.cons_ne_nil _ _) h
  | init => exact receiveFrame_refused _ s (List.cons_ne_nil _ _) h
  | fade i lo hi st => exact receiveFrame_refused _ s (List.cons_ne_nil _ _) h
  | setval i v => exact receiveFrame_refused _ s (List.cons_ne_nil _ _) h
  | setall vs => exact receiveFrame_refused _ s (List.cons_ne_nil _ _) h
  | _ => cases hi

/-- Every instruction that is no serial one is guarded by the configuration's legality. -/
theorem exec_guarded (i : Instr) (s : State) (hi : isSerial i = false) : ∃ body, exec i s = underLegalCfg s body := by
  cases i with
  | rx | frame2 | init | fade | setval | setall => cases hi
  | _ => exact ⟨_, rfl⟩

/-- Every instruction is refused under an ill-formed configuration (R12). -/
theorem exec_of_illegal (i : Instr) {s : State} (h : cfgLegal s.cfg = false) : exec i s = refuseEvent s := by
  cases hi : isSerial i with
  | true => exact exec_serial_refused i s hi (.inl h)
  | false =>
    obtain ⟨body, hb⟩ := exec_guarded i s hi
    rw [hb, underLegalCfg_of_illegal h]

/-- The LOCAL instruction of a code selects that code (R78, R134). -/
theorem exec_localInstr (c : BitVec 3) (s : State) : ∃ row, exec (localInstr c) s = selectLocal c row s := by
  have hc : c = 0 ∨ c = 1 ∨ c = 2 ∨ c = 3 ∨ c = 4 ∨ c = 5 ∨ c = 6 ∨ c = 7 := by
    revert c
    decide
  rcases hc with rfl | rfl | rfl | rfl | rfl | rfl | rfl | rfl <;> exact ⟨_, rfl⟩

/-! ### Words that name no event -/

/-- A payload of 8 or more is no LOCAL code (R72, R78). -/
theorem decodeLocal_of_ge {p : Byte} (h : 8 ≤ p.toNat) : decodeLocal p = .error .strayPayload := by
  have hne : ∀ k : Byte, k.toNat < 8 → p ≠ k := by
    rintro k hk rfl
    omega
  simp [decodeLocal, hne]

/-- A kind that carries no payload admits none (R72). -/
theorem withoutPayload_of_ne {p : Byte} (h : p ≠ 0) (i : Instr) : withoutPayload p i = .error .strayPayload := if_neg h

/-- A reserved tag, a payload where the kind carries none, or a LOCAL payload above 7 names no event (R72). -/
theorem decodeEvent_error {w : EventWord}
    (h : 6 ≤ (tagOf w).toNat ∨ (tagOf w).toNat ≤ 2 ∧ payloadOf w ≠ 0 ∨ tagOf w = 4 ∧ 8 ≤ (payloadOf w).toNat) :
    ∃ e, decodeEvent w = .error e := by
  rcases h with htag | ⟨htag, hp⟩ | ⟨htag, hp⟩
  · have hne : ∀ k : BitVec 4, k.toNat < 6 → tagOf w ≠ k := by
      rintro k hk heq
      rw [heq] at htag
      omega
    exact ⟨.reservedTag, by simp [decodeEvent, hne]⟩
  · have hcases : tagOf w = 0 ∨ tagOf w = 1 ∨ tagOf w = 2 := by bv_omega
    rcases hcases with ht | ht | ht <;> exact ⟨.strayPayload, by simp [decodeEvent, ht, withoutPayload_of_ne hp]⟩
  · exact ⟨.strayPayload, by simp [decodeEvent, htag, decodeLocal_of_ge hp]⟩

/-! ### Legal configurations -/

/-- The STRIP test is R8 (e). -/
theorem stripLegal_iff (c : Cfg) : stripLegal c = true ↔
    c.stripR ≠ c.stripG ∧ c.stripR ≠ c.stripB ∧ c.stripG ≠ c.stripB ∧
      ∀ i, i = c.stripR ∨ i = c.stripG ∨ i = c.stripB → 1 ≤ i ∧ i ≤ c.nOut ∧ c.domain[i - 1]? = some .byte := by
  simp only [stripLegal, Bool.and_eq_true, decide_eq_true_eq, List.all_eq_true, List.mem_cons, List.not_mem_nil,
    or_false, and_assoc]

/-- The four command codes are distinct (R8 (d)), pair by pair. -/
theorem commandCodes_nodup_iff (c : Cfg) : [c.cmdInit, c.cmdFade, c.cmdSetVal, c.cmdSetValAll].Nodup ↔
    c.cmdInit ≠ c.cmdFade ∧ c.cmdInit ≠ c.cmdSetVal ∧ c.cmdInit ≠ c.cmdSetValAll ∧ c.cmdFade ≠ c.cmdSetVal ∧
      c.cmdFade ≠ c.cmdSetValAll ∧ c.cmdSetVal ≠ c.cmdSetValAll := by
  simp [and_assoc]

/-- STRIP is checked with the local selector connected only. -/
theorem serial_or_iff (k : Control) (p : Prop) : (k = .serial ∨ p) ↔ (k = .localTable → p) := by
  cases k <;> simp

/-! ### The statements -/

/-- Settles O4: each of the four kinds of refused event reduces to `refuseEvent`; the mark is part of the frame of every
step. -/
theorem refusedEventsOnlySetTheMark : Obligations.RefusedEventsOnlySetTheMark := by
  refine ⟨fun i s h => exec_of_illegal i h, fun c s h => ?_, fun i s hi h => exec_serial_refused i s hi (.inr h),
    fun s w rest hs hw => ?_, fun b s h => receive_of_unused b h, fun s t hr ht => ((step_answers s).frame ht).mark hr⟩
  · obtain ⟨row, hrow⟩ := exec_localInstr c s
    rw [hrow]
    exact selectLocal_of_serial c row h
  · obtain ⟨e, he⟩ := decodeEvent_error hw
    exact step_of_decode_error hs he

/-- Settles O5: both are part of the frame of every instruction. -/
theorem configurationNeverChanges : Obligations.ConfigurationNeverChanges := fun i s _ ht =>
  ⟨((exec_answers i s).frame ht).cfg, ((exec_answers i s).frame ht).inputs⟩

/-- Settles O54: every instruction and every step answers. -/
theorem noStepFaults : Obligations.NoStepFaults := by
  refine ⟨fun i s => ?_, fun s => ?_⟩
  · obtain ⟨t, ht, -⟩ := exec_answers i s
    exact ⟨t, ht⟩
  · obtain ⟨t, ht, -⟩ := step_answers s
    exact ⟨t, ht⟩

/-- Settles O3, clause by clause: the clauses of R8 that `cfgLegal` tests in another form are the three lemmas above. -/
theorem configurationLegality : Obligations.ConfigurationLegality := by
  intro c
  simp only [cfgLegal, Bool.and_eq_true, Bool.or_eq_true, decide_eq_true_eq, stripLegal_iff, commandCodes_nodup_iff,
    serial_or_iff, and_assoc]

/-- Settles O6: the step by what the decoder answers, and the undecoded input by its kind. -/
theorem stepRunsTheDecodedInstruction : Obligations.StepRunsTheDecodedInstruction := by
  refine fun s x rest hs => ⟨fun i hd => step_of_decode_ok hs hd, fun e hd => ⟨?_, ?_⟩⟩
  · rintro w rfl
    exact step_of_decode_error hs hd
  · rintro bytes rfl
    exact step_of_decode_error hs hd

end Sys2Proof.Machine
end

section
/-! SUPPORT. The statements of 10_state.md. Each row of R37 (who writes which register) is read off what an instruction
leaves; the invariant `BlockInv` is carried through each parser function (`RxCompletes`), through DISPATCH and through
the rows of the local selector, so that every instruction and every step keeps it (`exec_inv`, `undecoded_inv`). -/

namespace Sys2Proof.Machine

/-! ### The invariant, where an update does not touch what it is about -/

/-- The invariant reads neither the sticky mark, the output records nor the inputs still to come. -/
theorem BlockInv.relabel {s : State} (h : BlockInv s) (r : Bool) (o : List StepOut) (x : List Input) :
    BlockInv { s with refused := r, outs := o, inputs := x } :=
  ⟨h.cfg, h.channels, h.parser, h.buffer, h.count⟩

theorem BlockInv.emit {s : State} (h : BlockInv s) (o : StepOut) : BlockInv (emit o s) :=
  ⟨h.cfg, h.channels, h.parser, h.buffer, h.count⟩

/-- The invariant after new parser registers. -/
theorem BlockInv.setParser {s : State} (h : BlockInv s) (state : RxState) (size cmd count : Byte) (buf : Memory)
    (hp : parserGood { s with rxState := state, rxSize := size, rxCmd := cmd, rxCount := count, rxBuf := buf })
    (hb : Memory.wf s.cfg.rxMax buf = true) :
    BlockInv { s with rxState := state, rxSize := size, rxCmd := cmd, rxCount := count, rxBuf := buf } :=
  ⟨h.cfg, h.channels, hp, hb, h.count⟩

/-- The return to WAIT meets the invariant whatever the parser held (R33). -/
theorem BlockInv.of_toWait {s : State} (hl : cfgLegal s.cfg = true) (hch : channelsGood s)
    (hcnt : s.tickCnt.toNat < s.cfg.tickThreshold) : BlockInv (toWait s) :=
  ⟨hl, hch, ⟨rfl, rfl, rfl, rfl⟩, Memory.wf_nil _, hcnt⟩

theorem BlockInv.afterCount {s : State} (h : BlockInv s) (e : StepError) : BlockInv (countError e s) := by
  unfold countError
  split
  · exact ⟨h.cfg, h.channels, h.parser, h.buffer, h.count⟩
  · exact h

/-! ### The parser's part of the invariant, state by state -/

theorem parserGood_wait {s : State} (hs : s.rxState = .wait) : parserGood s ↔ parserClear s := by
  simp [parserGood, hs]

theorem parserGood_size {s : State} (hs : s.rxState = .size) :
    parserGood s ↔ s.cfg.protocol = .multiField ∧ parserClear s := by
  simp [parserGood, hs]

theorem parserGood_index {s : State} (hs : s.rxState = .commandOrIndex) (hp : s.cfg.protocol = .twoField) :
    parserGood s ↔ s.rxCmd = 0 ∧ s.rxCount = 0 ∧ s.rxBuf = [] ∧ s.rxSize = 0 := by
  simp [parserGood, hs, hp]

theorem parserGood_command {s : State} (hs : s.rxState = .commandOrIndex) (hp : s.cfg.protocol = .multiField) :
    parserGood s ↔ s.rxCmd = 0 ∧ s.rxCount = 0 ∧ s.rxBuf = [] ∧ s.rxSize.toNat < s.cfg.rxMax := by
  simp [parserGood, hs, hp]

theorem parserGood_data {s : State} (hs : s.rxState = .data) :
    parserGood s ↔ payloadGood s ∧ s.rxCount.toNat < s.rxSize.toNat := by
  simp [parserGood, hs]

theorem parserGood_validate {s : State} (hs : s.rxState = .validate) :
    parserGood s ↔ payloadGood s ∧ s.rxCount = s.rxSize := by
  simp [parserGood, hs]

/-- The invariant admits only the five parser states. -/
theorem parserGood_used {s : State} (h : parserGood s) :
    s.rxState ≠ .unused5 ∧ s.rxState ≠ .unused6 ∧ s.rxState ≠ .unused7 := by
  refine ⟨fun hs => ?_, fun hs => ?_, fun hs => ?_⟩ <;> simp [parserGood, hs] at h

/-- Every payload byte stored so far has passed the field validator (R168). -/
def storedValid (s : State) : Prop :=
  ∀ k, k < s.rxCount.toNat → fieldValid s.cfg s.rxCmd s.rxBuf k (memRead s.rxBuf k) = true

theorem storedValid_of_empty {s : State} (h : s.rxCount = 0) : storedValid s := by
  intro k hk
  rw [h] at hk
  exact absurd hk (Nat.not_lt_zero k)

theorem payloadGood_twoField {s : State} (hp : s.cfg.protocol = .twoField) :
    payloadGood s ↔ (isIndex s.cfg s.rxCmd = true ∧ s.rxSize = 1) ∧ storedValid s := by
  simp [payloadGood, storedValid, hp]

theorem payloadGood_multiField {s : State} (hp : s.cfg.protocol = .multiField) :
    payloadGood s ↔ (s.rxSize.toNat < s.cfg.rxMax ∧
      ∃ c, commandOf s.cfg s.rxCmd = some c ∧ s.rxSize.toNat = esize s.cfg c) ∧ storedValid s := by
  simp [payloadGood, storedValid, hp]

/-- A payload of the declared size fits the buffer, under either protocol. -/
theorem payloadGood.size_le {s : State} (h : payloadGood s) (hR : 1 ≤ s.cfg.rxMax) : s.rxSize.toNat ≤ s.cfg.rxMax := by
  cases hp : s.cfg.protocol with
  | twoField =>
    obtain ⟨⟨-, hsize⟩, -⟩ := (payloadGood_twoField hp).1 h
    rw [hsize]
    exact hR
  | multiField =>
    obtain ⟨⟨hsize, -⟩, -⟩ := (payloadGood_multiField hp).1 h
    exact hsize.le

/-! ### RX completes, and keeps the invariant -/

/-- An answer to an RX that is a next state with one output record, the mark and the configuration those before, and
the invariant kept. -/
def RxCompletes (s : State) (out : Host.Outcome State Fault Refusal) : Prop :=
  ∃ t o, out = .next t ∧ t.outs = [o] ∧ t.refused = s.refused ∧ t.cfg = s.cfg ∧ (BlockInv s → BlockInv t)

theorem rxCompletes_emit {s t : State} (o : StepOut) (hr : t.refused = s.refused) (hc : t.cfg = s.cfg)
    (hi : BlockInv s → BlockInv t) : RxCompletes s (.next (emit o t)) :=
  ⟨_, o, rfl, rfl, hr, hc, fun h => (hi h).emit o⟩

/-- A raised parser error completes the RX (R222). -/
theorem raiseError_completes (e : StepError) (s : State) : RxCompletes s (raiseError e s) :=
  rxCompletes_emit _ (by simp) (by simp) fun h => (BlockInv.of_toWait h.cfg h.channels h.count).afterCount e

theorem rxWait_completes (b : Byte) {s : State} (hs : s.rxState = .wait) : RxCompletes s (rxWait b s) := by
  unfold rxWait
  split
  · split
    · rename_i hp
      refine rxCompletes_emit _ rfl rfl fun h => ?_
      obtain ⟨hsize, hcmd, hcount, hbuf⟩ := (parserGood_wait hs).1 h.parser
      exact h.setParser _ _ _ _ _ (Iff.mpr (parserGood_index rfl hp) ⟨hcmd, hcount, hbuf, hsize⟩) h.buffer
    · rename_i hp
      refine rxCompletes_emit _ rfl rfl fun h => ?_
      exact h.setParser _ _ _ _ _ (Iff.mpr (parserGood_size rfl) ⟨hp, (parserGood_wait hs).1 h.parser⟩) h.buffer
  · exact raiseError_completes _ s

theorem rxSizeByte_completes (b : Byte) {s : State} (hs : s.rxState = .size) : RxCompletes s (rxSizeByte b s) := by
  unfold rxSizeByte
  split
  · rename_i hb
    refine rxCompletes_emit _ rfl rfl fun h => ?_
    obtain ⟨hp, -, hcmd, hcount, hbuf⟩ := (parserGood_size hs).1 h.parser
    exact h.setParser _ _ _ _ _ (Iff.mpr (parserGood_command rfl hp) ⟨hcmd, hcount, hbuf, hb⟩) h.buffer
  · exact raiseError_completes _ s

theorem rxIndex_completes (b : Byte) {s : State} (hp : s.cfg.protocol = .twoField) :
    RxCompletes s (rxIndex b s) := by
  unfold rxIndex
  split
  · rename_i hb
    refine rxCompletes_emit _ rfl rfl fun h => ?_
    refine h.setParser _ _ _ _ _ (Iff.mpr (parserGood_data rfl) ⟨?_, Nat.zero_lt_one⟩) h.buffer
    exact Iff.mpr (payloadGood_twoField hp) ⟨⟨hb, rfl⟩, storedValid_of_empty rfl⟩
  · exact raiseError_completes _ s

/-- The test of a COMMAND byte (R165). -/
theorem commandAccepted_iff (s : State) (b : Byte) :
    commandAccepted s b = true ↔ ∃ c, commandOf s.cfg b = some c ∧ s.rxSize.toNat = esize s.cfg c := by
  unfold commandAccepted
  cases commandOf s.cfg b <;> simp

theorem rxCommand_completes (b : Byte) {s : State} (hs : s.rxState = .commandOrIndex)
    (hp : s.cfg.protocol = .multiField) : RxCompletes s (rxCommand b s) := by
  unfold rxCommand
  split
  · rename_i hb
    refine rxCompletes_emit _ rfl rfl fun h => ?_
    obtain ⟨-, hcount, -, hsize⟩ := (parserGood_command hs hp).1 h.parser
    refine h.setParser _ _ _ _ _ ?_ h.buffer
    have hpay : ∀ state : RxState, payloadGood { s with rxCmd := b, rxState := state } := fun _ =>
      Iff.mpr (payloadGood_multiField hp) ⟨⟨hsize, (commandAccepted_iff s b).1 hb⟩, storedValid_of_empty hcount⟩
    split
    · rename_i hzero
      exact Iff.mpr (parserGood_validate rfl) ⟨hpay _, hcount.trans hzero.symm⟩
    · rename_i hzero
      refine Iff.mpr (parserGood_data rfl) ⟨hpay _, ?_⟩
      show s.rxCount.toNat < s.rxSize.toNat
      bv_omega
  · exact raiseError_completes _ s

/-- Storing a byte the validator accepts at `rx_count` leaves every stored byte valid: FV at a position reads only the
bytes before it. -/
theorem storedValid_store {s : State} {b : Byte} (h : storedValid s) (hw : Memory.wf s.cfg.rxMax s.rxBuf = true)
    (hk : s.rxCount.toNat < s.cfg.rxMax) (hb : fieldValid s.cfg s.rxCmd s.rxBuf s.rxCount.toNat b = true) (k : Nat)
    (hle : k < s.rxCount.toNat + 1) :
    fieldValid s.cfg s.rxCmd (memWrite s.rxBuf s.rxCount.toNat b) k
      (memRead (memWrite s.rxBuf s.rxCount.toNat b) k) = true := by
  have hread : ∀ j, j < s.rxCount.toNat → memRead (memWrite s.rxBuf s.rxCount.toNat b) j = memRead s.rxBuf j :=
    fun j hj => Memory.read_write_other _ _ _ _ _ hw hj.ne
  rw [fieldValid_congr _ _ _ s.rxBuf k _ (by omega) fun j hj => hread j (by omega)]
  rcases Nat.lt_succ_iff_lt_or_eq.1 hle with hlt | rfl
  · rw [hread k hlt]
    exact h k hlt
  · rw [Memory.read_write_same _ _ _ _ hw]
    exact hb

/-- The count after a store that leaves it within the u8 (R166). -/
theorem countAfter_toNat {k : Nat} (h : k + 1 < 256) : (countAfter k).toNat = k + 1 := by
  rw [countAfter, if_pos h, BitVec.toNat_ofNat, Nat.mod_eq_of_lt h]

theorem rxStore_completes (b : Byte) {s : State} (hs : s.rxState = .data)
    (hb : fieldValid s.cfg s.rxCmd s.rxBuf s.rxCount.toNat b = true) : RxCompletes s (rxStore b s) := by
  refine rxCompletes_emit _ rfl rfl fun h => ?_
  obtain ⟨hpay, hlt⟩ := (parserGood_data hs).1 h.parser
  obtain ⟨-, -, -, ⟨hR, -⟩, -⟩ := (configurationLegality s.cfg).1 h.cfg
  have hk : s.rxCount.toNat < s.cfg.rxMax := hlt.trans_le (hpay.size_le hR)
  have hcount : (countAfter s.rxCount.toNat).toNat = s.rxCount.toNat + 1 := countAfter_toNat (by bv_omega)
  refine h.setParser _ _ _ _ _ ?_ (Memory.wf_bufWrite _ _ _ _ h.buffer)
  rw [bufWrite_of_lt hk]
  have hstored : ∀ state : RxState, payloadGood
      { s with
        rxBuf := memWrite s.rxBuf s.rxCount.toNat b
        rxCount := countAfter s.rxCount.toNat
        rxState := state } := fun _ =>
    ⟨hpay.1, fun k hle => storedValid_store hpay.2 h.buffer hk hb k (hcount ▸ hle)⟩
  split
  · rename_i hfull
    exact Iff.mpr (parserGood_validate rfl) ⟨hstored _, BitVec.eq_of_toNat_eq (hcount.trans hfull)⟩
  · rename_i hmore
    refine Iff.mpr (parserGood_data rfl) ⟨hstored _, ?_⟩
    show (countAfter s.rxCount.toNat).toNat < s.rxSize.toNat
    omega

theorem rxData_completes (b : Byte) {s : State} (hs : s.rxState = .data) : RxCompletes s (rxData b s) := by
  unfold rxData
  split
  · exact raiseError_completes _ s
  · split
    · rename_i hb
      exact rxStore_completes b hs hb
    · exact raiseError_completes _ s

/-! ### DISPATCH keeps the channel file good -/

theorem setOutput_channelsGood (i v : Byte) {s : State} (o : StepOut) (h : channelsGood s) :
    channelsGood (setOutput i v s o).1 := by
  unfold setOutput
  split
  · rename_i hv
    obtain ⟨hi, hdom⟩ := Bool.and_eq_true_iff.1 hv
    exact channelsGood_setChannel s _ _ h fun d hd => channelGood_solid d v (inDomain_of_dom _ _ _ d hi hdom hd)
  · exact h

theorem setOutputs_channelsGood (ks : List Nat) {s : State} (o : StepOut) (h : channelsGood s) :
    channelsGood (setOutputs ks s o).1 := by
  induction ks generalizing s o with
  | nil => exact h
  | cons k ks ih => exact ih _ (setOutput_channelsGood _ _ o h)

theorem cmdInitExec_channelsGood {s : State} (o : StepOut) (h : channelsGood s) :
    channelsGood (cmdInitExec s o).1 := by
  refine channelsGood_of_off _ ?_
  show s.ch.map (fun _ => offChannel) = List.replicate s.cfg.nOut offChannel
  rw [List.map_const', h.1]

/-- A validated FADE payload: the ceiling lies in its output's domain, and the floor is at most the ceiling (R168). -/
theorem payloadGood.fade {s : State} (h : payloadGood s) (hfull : s.rxCount = s.rxSize)
    (hp : s.cfg.protocol = .multiField) (hc : commandOf s.cfg s.rxCmd = some .fade) :
    dom s.cfg (bufRead s.cfg s.rxBuf 0) (bufRead s.cfg s.rxBuf 2) = true ∧
      (bufRead s.cfg s.rxBuf 1).toNat ≤ (bufRead s.cfg s.rxBuf 2).toNat := by
  obtain ⟨⟨hsize, c, hc', he⟩, hv⟩ := (payloadGood_multiField hp).1 h
  cases hc.symm.trans hc'
  have h4 : s.rxSize.toNat = 4 := he
  have h2 := hv 2 (by rw [hfull, h4]; decide)
  rw [← bufRead_of_lt (by omega : 2 < s.cfg.rxMax)] at h2
  simpa [fieldValid, hp, hc, fadeFieldValid] using h2

theorem fadeOutput_channelsGood (i lo hi st : Byte) {s : State} (h : channelsGood s) (hdom : dom s.cfg i hi = true)
    (hle : lo.toNat ≤ hi.toNat) : channelsGood (fadeOutput i lo hi st s) := by
  unfold fadeOutput
  split
  · rename_i hi
    exact channelsGood_setChannel s _ _ h fun d hd =>
      channelGood_fade d lo _ st (inDomain_of_dom _ _ _ d hi hdom hd) hle
  · exact h

/-- DISPATCH of a validated frame leaves a good channel file (R201). -/
theorem dispatch_channelsGood {s : State} (o : StepOut) (h : channelsGood s) (hpay : payloadGood s)
    (hfull : s.rxCount = s.rxSize) : channelsGood (dispatch s o).1 := by
  unfold dispatch
  split
  · exact setOutput_channelsGood _ _ o h
  · rename_i hp
    split
    · exact cmdInitExec_channelsGood o h
    · rename_i hc
      obtain ⟨hdom, hle⟩ := hpay.fade hfull hp hc
      exact fadeOutput_channelsGood _ _ _ _ h hdom hle
    · exact setOutput_channelsGood _ _ o h
    · exact setOutputs_channelsGood _ o h
    · exact h

theorem rxValidate_completes (b : Byte) {s : State} (hs : s.rxState = .validate) : RxCompletes s (rxValidate b s) := by
  unfold rxValidate
  split
  · refine rxCompletes_emit _ (by simp) (by simp) fun h => ?_
    obtain ⟨hpay, hfull⟩ := (parserGood_validate hs).1 h.parser
    exact .of_toWait (by simpa using h.cfg) (dispatch_channelsGood _ h.channels hpay hfull) (by simpa using h.count)
  · exact raiseError_completes _ s

/-- Settles O38, by the parser's state. -/
theorem rxAlwaysCompletes : Obligations.RxAlwaysCompletes := by
  intro b s hl hc h5 h6 h7
  show RxCompletes s (receive b s)
  rw [receive_serial b s hl hc]
  unfold rxByState
  split
  case h_1 hs => exact rxWait_completes b hs
  case h_2 hs => exact rxSizeByte_completes b hs
  case h_3 hs =>
    split
    case h_1 hp => exact rxIndex_completes b hp
    case h_2 hp => exact rxCommand_completes b hs hp
  case h_4 hs => exact rxData_completes b hs
  case h_5 hs => exact rxValidate_completes b hs
  case h_6 hs => exact absurd hs h5
  case h_7 hs => exact absurd hs h6
  case h_8 hs => exact absurd hs h7

/-! ### Every instruction keeps the invariant -/

/-- The next state of an outcome, where it has one, satisfies the invariant. -/
def NextInv (out : Host.Outcome State Fault Refusal) : Prop := ∀ t, out = .next t → BlockInv t

theorem nextInv_emit (o : StepOut) {s : State} (h : BlockInv s) : NextInv (.next (emit o s)) := by
  rintro t ⟨⟩
  exact h.emit o

theorem refuseEvent_inv {s : State} (h : BlockInv s) : NextInv (refuseEvent s) := by
  rintro t ⟨⟩
  exact h.relabel _ _ _

theorem underLegalCfg_inv {s : State} {body : Host.Outcome State Fault Refusal} (h : BlockInv s)
    (hbody : NextInv body) : NextInv (underLegalCfg s body) := by
  unfold underLegalCfg
  split
  · exact hbody
  · exact refuseEvent_inv h

theorem receive_inv (b : Byte) {s : State} (h : BlockInv s) : NextInv (receive b s) := by
  cases hc : s.cfg.control with
  | serial =>
    obtain ⟨h5, h6, h7⟩ := parserGood_used h.parser
    obtain ⟨t, o, ht, -, -, -, hinv⟩ := rxAlwaysCompletes b s h.cfg hc h5 h6 h7
    rintro u hu
    cases ht.symm.trans hu
    exact hinv h
  | localTable =>
    rw [receive_refused b s (.inr hc)]
    exact refuseEvent_inv h

theorem receiveFrame_inv (bytes : List Byte) {s : State} (h : BlockInv s) : NextInv (receiveFrame bytes s) :=
  fun t ht => receiveAll_keeps BlockInv (fun b _ v hv hu => receive_inv b hu v hv) (fun _ _ hu => hu.relabel _ _ _)
    bytes _ t ht (h.relabel _ _ _)

/-- The state RESET writes satisfies the invariant, from any state under a well-formed configuration (R250). -/
theorem BlockInv.of_resetRegisters {s : State} (hl : cfgLegal s.cfg = true) : BlockInv (resetRegisters s) := by
  obtain ⟨-, -, ⟨hthr, -⟩, -⟩ := (configurationLegality s.cfg).1 hl
  exact ⟨hl, channelsGood_of_off _ rfl, ⟨rfl, rfl, rfl, rfl⟩, Memory.wf_nil _, hthr⟩

/-- The effective threshold lies between 1 and the configured one (R101). -/
theorem thrEff_bounds {threshold : Nat} (n : Byte) (h : 1 ≤ threshold) :
    1 ≤ thrEff threshold n ∧ thrEff threshold n ≤ threshold := by
  have hdiv := Nat.div_le_self threshold n.toNat
  unfold thrEff
  split <;> omega

theorem execIrq_inv {s : State} (h : BlockInv s) : NextInv (execIrq s) := by
  refine underLegalCfg_inv h (nextInv_emit _ ⟨h.cfg, h.channels, h.parser, h.buffer, ?_⟩)
  obtain ⟨-, -, ⟨hlo, hhi⟩, -⟩ := (configurationLegality s.cfg).1 h.cfg
  obtain ⟨hone, hle⟩ := thrEff_bounds s.divN hlo
  obtain ⟨-, hlt⟩ := nextCount_toNat _ s.tickCnt hone (hle.trans hhi)
  exact hlt.trans_le hle

/-- ADVANCE of every channel keeps the channel file good (R130). -/
theorem channelsGood_advance {s : State} (tick : Bool) (h : channelsGood s) :
    channelsGood { s with ch := s.ch.map (advance tick) } := by
  refine ⟨(List.length_map _).trans h.1, fun k d c hd hk => ?_⟩
  rw [List.getElem?_map] at hk
  obtain ⟨c', hc', rfl⟩ := Option.map_eq_some_iff.1 hk
  exact channelGood_advance d c' tick (h.2 k d c' hd hc')

theorem execPoll_inv {s : State} (h : BlockInv s) : NextInv (execPoll s) :=
  underLegalCfg_inv h (nextInv_emit _ ⟨h.cfg, channelsGood_advance _ h.channels, h.parser, h.buffer, h.count⟩)

/-! ### The rows of the local selector -/

/-- The STRIP channels name BYTE outputs (R8 (e)). -/
structure StripBytes (cfg : Cfg) : Prop where
  red : cfg.domain[cfg.stripR - 1]? = some .byte
  green : cfg.domain[cfg.stripG - 1]? = some .byte
  blue : cfg.domain[cfg.stripB - 1]? = some .byte

theorem StripBytes.of_legal {cfg : Cfg} (hl : cfgLegal cfg = true) (hc : cfg.control = .localTable) :
    StripBytes cfg := by
  obtain ⟨-, -, -, -, -, hstrip, -⟩ := (configurationLegality cfg).1 hl
  obtain ⟨-, -, -, hbyte⟩ := hstrip hc
  exact ⟨(hbyte _ (.inl rfl)).2.2, (hbyte _ (.inr (.inl rfl))).2.2, (hbyte _ (.inr (.inr rfl))).2.2⟩

/-- The write of a good BYTE channel on a BYTE output. -/
theorem channelsGood_setByteChannel {s : State} {i : Nat} {c : Channel} (hi : s.cfg.domain[i - 1]? = some .byte)
    (hc : channelGood .byte c) (h : channelsGood s) : channelsGood (setChannel i c s) :=
  channelsGood_setChannel s i c h fun d hd => by
    cases hi.symm.trans hd
    exact hc

/-- Good BYTE channels written on the three STRIP outputs, the one after the other. -/
theorem channelsGood_setStrip {s : State} (hs : StripBytes s.cfg) {r g b : Channel} (hr : channelGood .byte r)
    (hg : channelGood .byte g) (hb : channelGood .byte b) (h : channelsGood s) :
    channelsGood (setChannel s.cfg.stripB b (setChannel s.cfg.stripG g (setChannel s.cfg.stripR r s))) :=
  channelsGood_setByteChannel hs.blue hb
    (channelsGood_setByteChannel hs.green hg (channelsGood_setByteChannel hs.red hr h))

/-- A row of the local selector writes only the channel file and the divider, and it keeps a good channel file good
where the STRIP outputs are BYTE and the local fade's floor is at most its ceiling (R8 (e), (f)). -/
structure RowGood (row : State → State) : Prop where
  frame : ∀ u, row u = { u with ch := (row u).ch, divN := (row u).divN }
  channels : ∀ u, StripBytes u.cfg → u.cfg.localFadeLow.toNat ≤ u.cfg.localFadeHigh.toNat → channelsGood u →
    channelsGood (row u)

theorem stripOff_good : RowGood stripOff :=
  ⟨fun _ => rfl, fun _ hs _ h => channelsGood_setStrip hs (channelGood_off _) (channelGood_off _) (channelGood_off _) h⟩

theorem stripSolid_good (r g b : Byte) : RowGood (stripSolid r g b) :=
  ⟨fun _ => rfl, fun _ hs _ h => channelsGood_setStrip hs (channelGood_solid _ r rfl) (channelGood_solid _ g rfl)
    (channelGood_solid _ b rfl) h⟩

theorem stripFlash_good (r g b : Byte) : RowGood (stripFlash r g b) := by
  refine ⟨fun _ => rfl, fun u hs _ h => ?_⟩
  obtain ⟨hlen, hgood⟩ := channelsGood_setStrip hs (channelGood_flash _ r rfl) (channelGood_flash _ g rfl)
    (channelGood_flash _ b rfl) h
  exact ⟨hlen, hgood⟩

theorem stripFade_good : RowGood stripFade :=
  ⟨fun _ => rfl, fun u hs hle h =>
    have hfade := channelGood_fade .byte u.cfg.localFadeLow u.cfg.localFadeHigh u.cfg.localFadeStep rfl hle
    channelsGood_setStrip hs hfade hfade hfade h⟩

theorem selectLocal_inv (c : BitVec 3) {row : State → State} (hrow : RowGood row) {s : State} (h : BlockInv s) :
    NextInv (selectLocal c row s) := by
  refine underLegalCfg_inv h ?_
  split
  · exact refuseEvent_inv h
  · rename_i hc
    split
    · exact nextInv_emit _ h
    · obtain ⟨-, -, -, -, -, -, hfade⟩ := (configurationLegality s.cfg).1 h.cfg
      have hch := hrow.channels { s with localCode := c } (.of_legal h.cfg hc) hfade h.channels
      rw [hrow.frame] at hch ⊢
      exact nextInv_emit _ ⟨h.cfg, hch, h.parser, h.buffer, h.count⟩

/-- Every instruction keeps the invariant. -/
theorem exec_inv (i : Instr) {s : State} (h : BlockInv s) : NextInv (exec i s) := by
  cases i with
  | reset => exact underLegalCfg_inv h (nextInv_emit _ (.of_resetRegisters h.cfg))
  | irq => exact execIrq_inv h
  | poll => exact execPoll_inv h
  | setdiv n => exact underLegalCfg_inv h (nextInv_emit _ ⟨h.cfg, h.channels, h.parser, h.buffer, h.count⟩)
  | local0 => exact selectLocal_inv _ stripOff_good h
  | local1 => exact selectLocal_inv _ (stripSolid_good _ _ _) h
  | local2 => exact selectLocal_inv _ (stripSolid_good _ _ _) h
  | local3 => exact selectLocal_inv _ (stripSolid_good _ _ _) h
  | local4 => exact selectLocal_inv _ (stripSolid_good _ _ _) h
  | local5 => exact selectLocal_inv _ (stripFlash_good _ _ _) h
  | local6 => exact selectLocal_inv _ (stripFlash_good _ _ _) h
  | local7 => exact selectLocal_inv _ stripFade_good h
  | rx b => exact receive_inv b h
  | frame2 i v => exact receiveFrame_inv _ h
  | init => exact receiveFrame_inv _ h
  | fade i lo hi st => exact receiveFrame_inv _ h
  | setval i v => exact receiveFrame_inv _ h
  | setall vs => exact receiveFrame_inv _ h

theorem undecoded_inv (x : Input) {s : State} (h : BlockInv s) : NextInv (undecoded x s) := by
  cases x with
  | event w => exact refuseEvent_inv h
  | frame bytes => exact receiveFrame_inv bytes h

/-- Settles O53: by what the decoder answers for the next input, if there is one. -/
theorem everyStepKeepsTheInvariant : Obligations.EveryStepKeepsTheInvariant := by
  intro s t h ht
  cases hs : s.inputs with
  | nil =>
    cases (step_of_no_input hs).symm.trans ht
    exact h
  | cons x rest =>
    have hrest : BlockInv { s with inputs := rest } := h.relabel _ _ _
    cases hd : decode s.cfg x with
    | ok i => exact exec_inv i hrest t ((step_of_decode_ok hs hd).symm.trans ht)
    | error e => exact undecoded_inv x hrest t ((step_of_decode_error hs hd).symm.trans ht)

/-! ### The state after reset, and the states a run reaches -/

/-- What a run starts in is what RESET leaves in it, but for the output record. -/
theorem resetRegisters_resetOf (cfg : Cfg) : resetRegisters (State.resetOf cfg) = State.resetOf cfg := rfl

/-- Settles O2: RESET is admitted under a well-formed configuration, and writes the registers as they are. -/
theorem powerOnStateIsTheResetState : Obligations.PowerOnStateIsTheResetState := by
  refine ⟨rfl, by decide, fun cfg hl => ⟨?_, rfl⟩⟩
  show underLegalCfg (State.resetOf cfg) (.next (emit .quiet (resetRegisters (State.resetOf cfg)))) = _
  rw [resetRegisters_resetOf]
  exact if_pos hl

/-- Settles O52: the state a run starts in holds the registers RESET writes. -/
theorem resetStateSatisfiesTheInvariant : Obligations.ResetStateSatisfiesTheInvariant := fun cfg hl =>
  resetRegisters_resetOf cfg ▸ BlockInv.of_resetRegisters (s := State.resetOf cfg) hl

/-- Every state a run from reset reaches satisfies the invariant, under the configuration it began with. -/
theorem Reachable.inv {cfg : Cfg} {s : State} (hl : cfgLegal cfg = true) (h : Reachable cfg s) :
    s.cfg = cfg ∧ BlockInv s := by
  induction h with
  | reset => exact ⟨rfl, resetStateSatisfiesTheInvariant cfg hl⟩
  | supply s inputs _ ih =>
    obtain ⟨hcfg, hinv⟩ := ih
    exact ⟨hcfg, hinv.relabel _ _ _⟩
  | step s t _ ht ih =>
    obtain ⟨hcfg, hinv⟩ := ih
    exact ⟨((step_answers s).frame ht).cfg.trans hcfg, everyStepKeepsTheInvariant s t hinv ht⟩

/-- Under the invariant every output shows a value of its domain (R29). -/
theorem BlockInv.duty {s : State} (h : BlockInv s) {i : Nat} {d : Domain} (hi : 1 ≤ i)
    (hd : s.cfg.domain[i - 1]? = some d) : ∃ v, dutyPort s i = some v ∧ inDomain d v = true := by
  obtain ⟨-, hdomain, -⟩ := (configurationLegality s.cfg).1 h.cfg
  obtain ⟨hlen, hgood⟩ := h.channels
  obtain ⟨hlt, -⟩ := List.getElem?_eq_some_iff.1 hd
  have hc : s.ch[i - 1]? = some (s.ch[i - 1]'(by omega)) := List.getElem?_eq_getElem _
  obtain ⟨hv, -⟩ := hgood (i - 1) d _ hd hc
  exact ⟨_, by rw [dutyPort, if_neg (by omega), hc]; rfl, hv⟩

/-- Settles O55: the invariant of the reachable states, read at the duty ports. -/
theorem dutyStaysInItsDomain : Obligations.DutyStaysInItsDomain := by
  intro cfg s hl hr
  obtain ⟨rfl, hinv⟩ := hr.inv hl
  exact ⟨rfl, fun i d hi hd => hinv.duty hi hd⟩

/-! ### A fade within its bounds -/

/-- A FADE whose value lies within its bounds (R35 (e)). -/
structure FadeWithin (c : Channel) : Prop where
  mode : c.mode = .fade
  floor : c.low.toNat ≤ c.value.toNat
  ceiling : c.value.toNat ≤ c.high.toNat

/-- What one consumed tick does to a FADE within its bounds. -/
structure FadeTick (c d : Channel) : Prop where
  within : FadeWithin d
  low : d.low = c.low
  high : d.high = c.high
  step : d.step = c.step
  rise : d.value.toNat ≤ c.value.toNat + c.step.toNat
  fall : c.value.toNat ≤ d.value.toNat + c.step.toNat
  direction : c.low.toNat < c.value.toNat → c.value.toNat < c.high.toNat →
    (c.phase = false → c.value.toNat ≤ d.value.toNat) ∧ (c.phase = true → d.value.toNat ≤ c.value.toNat) ∧
      (c.low.toNat < d.value.toNat → d.value.toNat < c.high.toNat → d.phase = c.phase)

/-- Strictly between the bounds stage 1 of R129 corrects nothing. -/
theorem fadeDirection_between {c : Channel} (hlo : c.low.toNat < c.value.toNat) (hhi : c.value.toNat < c.high.toNat) :
    fadeDirection c = c.phase := by
  simp [fadeDirection, hlo.not_ge, hhi.not_ge]

theorem FadeWithin.tick {c : Channel} (h : FadeWithin c) : FadeTick c (advance true c) := by
  obtain ⟨hm, hlo, hhi⟩ := h
  obtain ⟨mode, low, high, step, rising, falling, phase⟩ := advance_fade c hm (hlo.trans hhi)
  have hvalue : (c.low.toNat ≤ (advance true c).value.toNat ∧ (advance true c).value.toNat ≤ c.high.toNat) ∧
      (advance true c).value.toNat ≤ c.value.toNat + c.step.toNat ∧
      c.value.toNat ≤ (advance true c).value.toNat + c.step.toNat := by
    cases hd : fadeDirection c with
    | false => have := rising hd; omega
    | true => have := falling hd; omega
  obtain ⟨⟨hfloor, hceiling⟩, hrise, hfall⟩ := hvalue
  refine ⟨⟨mode, low ▸ hfloor, high ▸ hceiling⟩, low, high, step, hrise, hfall, fun hl hh => ?_⟩
  have hd := fadeDirection_between hl hh
  refine ⟨fun hp => ?_, fun hp => ?_, fun hl' hh' => ?_⟩
  · have := rising (hd.trans hp)
    omega
  · have := falling (hd.trans hp)
    omega
  · rw [phase, if_neg hl'.ne', if_neg hh'.ne, hd]

/-- After any number of ticks a fade is within the bounds and the step it began with. -/
theorem FadeWithin.ticks {c : Channel} (h : FadeWithin c) (k : Nat) :
    FadeWithin (afterTicks k c) ∧ (afterTicks k c).low = c.low ∧ (afterTicks k c).high = c.high ∧
      (afterTicks k c).step = c.step := by
  induction k with
  | zero => exact ⟨h, rfl, rfl, rfl⟩
  | succ k ih =>
    obtain ⟨hk, hlow, hhigh, hstep⟩ := ih
    have ht := hk.tick
    rw [afterTicks_succ]
    exact ⟨ht.within, ht.low.trans hlow, ht.high.trans hhigh, ht.step.trans hstep⟩

/-- Settles O23: one more tick, from a fade that has kept its bounds and its step. -/
theorem fadeNeverLeavesItsBounds : Obligations.FadeNeverLeavesItsBounds := by
  intro c k hm hlo hhi
  obtain ⟨hk, hlow, hhigh, hstep⟩ := FadeWithin.ticks ⟨hm, hlo, hhi⟩ k
  obtain ⟨-, -, -, -, hrise, hfall, hdir⟩ := hk.tick
  obtain ⟨-, hfloor, hceiling⟩ := hk
  rw [hlow] at hfloor hdir
  rw [hhigh] at hceiling hdir
  rw [hstep] at hrise hfall
  rw [afterTicks_succ]
  exact ⟨hlow, hhigh, hfloor, hceiling, hrise, hfall, hdir⟩

/-! ### What a reception writes -/

/-- What the RX events that left the records `l` wrote outside the parser: nothing of the timing and of the selector,
the divider only with an `Init` among the records, the channel file only with a record. -/
structure RxWrites (s t : State) (l : List StepOut) : Prop where
  tickCnt : t.tickCnt = s.tickCnt
  tickFlag : t.tickFlag = s.tickFlag
  localCode : t.localCode = s.localCode
  divN : t.divN ≠ s.divN → ∃ o ∈ l, DispatchRecord.init ∈ o.disp
  ch : t.ch ≠ s.ch → ∃ o ∈ l, o.disp ≠ []

/-- A register that was not written is not changed. -/
theorem unwritten {α : Type} {a b : α} {p : Prop} (h : a = b) (hne : a ≠ b) : p := absurd h hne

theorem RxWrites.trans {s u t : State} {l m : List StepOut} (h₁ : RxWrites s u l) (h₂ : RxWrites u t m) :
    RxWrites s t (l ++ m) := by
  refine ⟨h₂.tickCnt.trans h₁.tickCnt, h₂.tickFlag.trans h₁.tickFlag, h₂.localCode.trans h₁.localCode,
    fun h => ?_, fun h => ?_⟩
  · simp only [List.mem_append, or_and_right, exists_or]
    by_cases hu : u.divN = s.divN
    · exact .inr (h₂.divN (hu ▸ h))
    · exact .inl (h₁.divN hu)
  · simp only [List.mem_append, or_and_right, exists_or]
    by_cases hu : u.ch = s.ch
    · exact .inr (h₂.ch (hu ▸ h))
    · exact .inl (h₁.ch hu)

theorem RxEffect.writes {b : Byte} {s t : State} (h : RxEffect b s t) : RxWrites s t t.outs := by
  cases h with
  | refused => exact ⟨rfl, rfl, rfl, unwritten rfl, unwritten rfl⟩
  | error e _ =>
    exact ⟨by simp [afterError], by simp [afterError], by simp [afterError], unwritten (by simp [afterError]),
      unwritten (by simp [afterError])⟩
  | moved _ hm =>
    rw [hm]
    exact ⟨rfl, rfl, rfl, unwritten rfl, unwritten rfl⟩
  | dispatched _ _ =>
    obtain ⟨l, hl, hch, hdiv⟩ := (dispatch_effect s .quiet).records
    refine ⟨by simp, by simp, by simp, fun h => ⟨_, List.mem_singleton_self _, ?_⟩,
      fun h => ⟨_, List.mem_singleton_self _, ?_⟩⟩
    · rw [hl]
      exact hdiv h
    · rw [hl]
      exact hch h

/-- The RX events of several bytes add their records, and what they write goes with those. -/
theorem receiveAll_writes (bs : List Byte) {s t : State} (h : receiveAll bs s = .next t) :
    ∃ l, t.outs = s.outs ++ l ∧ RxWrites s t l := by
  induction bs generalizing s with
  | nil =>
    cases h
    exact ⟨[], (List.append_nil _).symm, rfl, rfl, rfl, unwritten rfl, unwritten rfl⟩
  | cons b bs ih =>
    obtain ⟨u, hu⟩ := receive_next b s
    rw [receiveAll_cons b bs s u hu] at h
    obtain ⟨l, houts, htail⟩ := ih h
    have hhead := (receive_effect b s u hu).writes
    exact ⟨u.outs ++ l, houts.trans (List.append_assoc _ _ _),
      hhead.trans ⟨htail.tickCnt, htail.tickFlag, htail.localCode, htail.divN, htail.ch⟩⟩

theorem receiveFrame_writes (bytes : List Byte) {s t : State} (h : receiveFrame bytes s = .next t) :
    RxWrites s t t.outs := by
  obtain ⟨l, houts, hw⟩ := receiveAll_writes bytes h
  rw [houts]
  exact ⟨hw.tickCnt, hw.tickFlag, hw.localCode, hw.divN, hw.ch⟩

/-- A serial instruction writes what RX events write. -/
theorem exec_serial_writes {i : Instr} {s t : State} (hi : isSerial i = true) (h : exec i s = .next t) :
    RxWrites s t t.outs := by
  cases i with
  | rx b => exact (receive_effect b s t h).writes
  | frame2 i v => exact receiveFrame_writes _ h
  | init => exact receiveFrame_writes _ h
  | fade i lo hi st => exact receiveFrame_writes _ h
  | setval i v => exact receiveFrame_writes _ h
  | setall vs => exact receiveFrame_writes _ h
  | _ => cases hi

/-! ### Who writes which register -/

/-- The parser's registers and the error counter as they were. -/
structure ParserKept (s t : State) : Prop where
  rxState : t.rxState = s.rxState
  rxSize : t.rxSize = s.rxSize
  rxCmd : t.rxCmd = s.rxCmd
  rxCount : t.rxCount = s.rxCount
  rxBuf : t.rxBuf = s.rxBuf
  errCount : t.errCount = s.errCount

/-- The table of R37, row by row, for an instruction that leads from `s` to `t`. -/
structure WriteAccess (i : Instr) (s t : State) : Prop where
  tickCnt : t.tickCnt ≠ s.tickCnt → i = .irq ∨ i = .reset
  tickFlag : t.tickFlag ≠ s.tickFlag → i = .irq ∧ t.tickFlag = true ∨ (i = .poll ∨ i = .reset) ∧ t.tickFlag = false
  divN : t.divN ≠ s.divN → (∃ n, i = .setdiv n) ∨ i = .local5 ∨ i = .local6 ∨ initDispatched t ∨ i = .reset
  ch : t.ch ≠ s.ch → i = .poll ∨ (∃ c, i = localInstr c) ∨ dispatched t ∨ i = .reset
  localCode : t.localCode ≠ s.localCode → (∃ c, i = localInstr c) ∨ i = .reset
  parser : (isSerial i = true ∨ i = .reset) ∨ ParserKept s t

/-- The mark and the output records are no registers of R37: any instruction may write them. -/
theorem WriteAccess.of_unwritten (i : Instr) (s : State) (r : Bool) (o : List StepOut) :
    WriteAccess i s { s with refused := r, outs := o } :=
  ⟨unwritten rfl, unwritten rfl, unwritten rfl, unwritten rfl, unwritten rfl, .inr ⟨rfl, rfl, rfl, rfl, rfl, rfl⟩⟩

/-- The guard of R12 either refuses or is its body. -/
theorem underLegalCfg_next {s t : State} {body : Host.Outcome State Fault Refusal}
    (h : underLegalCfg s body = .next t) : t = { s with refused := true, outs := [] } ∨ body = .next t := by
  unfold underLegalCfg at h
  split at h
  · exact .inr h
  · cases h
    exact .inl rfl

/-- A guarded instruction keeps to R37 where its admitted next state does. -/
theorem WriteAccess.of_guarded {i : Instr} {s t u : State} (h : underLegalCfg s (.next u) = .next t)
    (hu : WriteAccess i s u) : WriteAccess i s t := by
  rcases underLegalCfg_next h with rfl | h
  · exact .of_unwritten i s _ _
  · cases h
    exact hu

theorem WriteAccess.of_serial {i : Instr} {s t : State} (hi : isSerial i = true) (h : exec i s = .next t) :
    WriteAccess i s t := by
  have hw := exec_serial_writes hi h
  exact ⟨unwritten hw.tickCnt, unwritten hw.tickFlag, fun hne => .inr (.inr (.inr (.inl (hw.divN hne)))),
    fun hne => .inr (.inr (.inl (hw.ch hne))), unwritten hw.localCode, .inl (.inl hi)⟩

/-- LOCAL keeps to R37 when only the flashing rows write the divider (R134). -/
theorem WriteAccess.of_selectLocal {i : Instr} {c : BitVec 3} {row : State → State} (hrow : RowGood row)
    (hi : ∃ c, i = localInstr c) (hdiv : ∀ u, (row u).divN = u.divN ∨ i = .local5 ∨ i = .local6) {s t : State}
    (h : selectLocal c row s = .next t) : WriteAccess i s t := by
  rcases underLegalCfg_next h with rfl | h
  · exact .of_unwritten i s _ _
  split at h
  · cases h
    exact .of_unwritten i s _ _
  · split at h
    · cases h
      exact .of_unwritten i s _ _
    · rw [hrow.frame] at h
      cases h
      refine ⟨unwritten rfl, unwritten rfl, fun hne => ?_, fun _ => .inr (.inl hi), fun _ => .inl hi,
        .inr ⟨rfl, rfl, rfl, rfl, rfl, rfl⟩⟩
      rcases hdiv { s with localCode := c } with hkept | h5 | h6
      · exact unwritten hkept hne
      · exact .inr (.inl h5)
      · exact .inr (.inr (.inl h6))

/-- A flag that an `or` has changed is set (R100). -/
theorem or_eq_true_of_ne {a b : Bool} (h : (a || b) ≠ a) : (a || b) = true := by
  cases a with
  | false => exact Bool.eq_true_of_not_eq_false h
  | true => rfl

/-- Every instruction keeps to R37. -/
theorem exec_writeAccess (i : Instr) {s t : State} (h : exec i s = .next t) : WriteAccess i s t := by
  cases i with
  | reset =>
    exact .of_guarded h ⟨fun _ => .inr rfl, fun _ => .inr ⟨.inr rfl, rfl⟩, fun _ => .inr (.inr (.inr (.inr rfl))),
      fun _ => .inr (.inr (.inr rfl)), fun _ => .inr rfl, .inl (.inr rfl)⟩
  | irq =>
    exact .of_guarded h ⟨fun _ => .inl rfl, fun hne => .inl ⟨rfl, or_eq_true_of_ne hne⟩, unwritten rfl, unwritten rfl,
      unwritten rfl, .inr ⟨rfl, rfl, rfl, rfl, rfl, rfl⟩⟩
  | poll =>
    exact .of_guarded h ⟨unwritten rfl, fun _ => .inr ⟨.inl rfl, rfl⟩, unwritten rfl, fun _ => .inl rfl, unwritten rfl,
      .inr ⟨rfl, rfl, rfl, rfl, rfl, rfl⟩⟩
  | setdiv n =>
    exact .of_guarded h ⟨unwritten rfl, unwritten rfl, fun _ => .inl ⟨n, rfl⟩, unwritten rfl, unwritten rfl,
      .inr ⟨rfl, rfl, rfl, rfl, rfl, rfl⟩⟩
  | local0 => exact .of_selectLocal stripOff_good ⟨0, rfl⟩ (fun _ => .inl rfl) h
  | local1 => exact .of_selectLocal (stripSolid_good _ _ _) ⟨1, rfl⟩ (fun _ => .inl rfl) h
  | local2 => exact .of_selectLocal (stripSolid_good _ _ _) ⟨2, rfl⟩ (fun _ => .inl rfl) h
  | local3 => exact .of_selectLocal (stripSolid_good _ _ _) ⟨3, rfl⟩ (fun _ => .inl rfl) h
  | local4 => exact .of_selectLocal (stripSolid_good _ _ _) ⟨4, rfl⟩ (fun _ => .inl rfl) h
  | local5 => exact .of_selectLocal (stripFlash_good _ _ _) ⟨5, rfl⟩ (fun _ => .inr (.inl rfl)) h
  | local6 => exact .of_selectLocal (stripFlash_good _ _ _) ⟨6, rfl⟩ (fun _ => .inr (.inr rfl)) h
  | local7 => exact .of_selectLocal stripFade_good ⟨7, rfl⟩ (fun _ => .inl rfl) h
  | rx b => exact .of_serial rfl h
  | frame2 i v => exact .of_serial rfl h
  | init => exact .of_serial rfl h
  | fade i lo hi st => exact .of_serial rfl h
  | setval i v => exact .of_serial rfl h
  | setall vs => exact .of_serial rfl h

/-- Settles O51: the table, row by row. -/
theorem writeAccessByEvent : Obligations.WriteAccessByEvent := by
  intro i s t h
  obtain ⟨tickCnt, tickFlag, divN, ch, localCode, parser⟩ := exec_writeAccess i h
  refine ⟨tickCnt, tickFlag, divN, ch, localCode, fun hne => parser.resolve_right fun hkept => ?_⟩
  simp [hkept.rxState, hkept.rxSize, hkept.rxCmd, hkept.rxCount, hkept.rxBuf, hkept.errCount] at hne

end Sys2Proof.Machine
end

section
/-! SUPPORT. The statements of 20_memory.md: a frame is the RX events of its bytes. The host's run over those events
simulates `receiveAll`: one step for each byte, and by `receive_relabel` neither the output records that the steps
replace nor the events still to come change what a byte does (`run_rxEvents`). And a LOCAL code that is the current one
does nothing, whatever its row. -/

namespace Sys2Proof.Machine

/-! ### A frame and its RX events -/

/-- A frame instruction receives the bytes that encode it (R81). -/
theorem exec_of_encode_frame {i : Instr} {s : State} {bytes : List Byte} (h : encode s.cfg i = .frame bytes) :
    exec i s = receiveFrame bytes s := by
  cases i with
  | frame2 | init | fade | setval | setall =>
    cases h
    rfl
  | _ => cases h

/-- The RX events of some bytes, in order (R62, R70). -/
def rxEvents (bytes : List Byte) : List Input := bytes.map fun b => .event (eventWord 3 b)

/-- Every payload of tag 3 is a received byte (R70, R72). -/
theorem decode_rxEvent (cfg : Cfg) (b : Byte) : decode cfg (.event (eventWord 3 b)) = .ok (.rx b) := by
  simp [decode, decodeEvent]

/-- A step over an RX event receives its byte, whatever the output records before it. -/
theorem step_rxEvent {b : Byte} {s u : State} (o : List StepOut) (rest : List Input) (h : receive b s = .next u) :
    step (relabel o (.event (eventWord 3 b) :: rest) s) = .next { u with inputs := rest } := by
  rw [step_of_decode_ok (s := relabel o (.event (eventWord 3 b) :: rest) s) rfl (decode_rxEvent s.cfg b)]
  exact receive_relabel b s u o rest h

/-- A run that begins with an answered step goes on from the state that step leaves. -/
theorem run_succ_of_step {s u : State} (k : Nat) (h : step s = .next u) :
    Host.Core.run core (k + 1) s = Host.Core.run core k u := by
  have hstep : core.step s = Host.Outcome.next u := h
  simp only [Host.Core.run, hstep]

/-- The simulation: the steps over the RX events of some bytes leave what receiving the bytes leaves, with those events
taken and output records of their own. -/
theorem run_rxEvents (bs : List Byte) {s t : State} (o : List StepOut) (rest : List Input)
    (h : receiveAll bs s = .next t) :
    ∃ o', Host.Core.run core bs.length (relabel o (rxEvents bs ++ rest) s) = .next (relabel o' rest t) := by
  induction bs generalizing s o with
  | nil =>
    cases h
    exact ⟨o, rfl⟩
  | cons b bs ih =>
    obtain ⟨u, hu⟩ := receive_next b s
    rw [receiveAll_cons b bs s u hu] at h
    obtain ⟨o', hrun⟩ := ih u.outs h
    exact ⟨o', (run_succ_of_step bs.length (step_rxEvent o (rxEvents bs ++ rest) hu)).trans hrun⟩

/-! ### A repeated LOCAL code -/

/-- LOCAL with the current code applies no row (R54, R134). -/
theorem selectLocal_repeated {c : BitVec 3} (row : State → State) {s : State} (h : cfgLegal s.cfg = true)
    (hc : s.cfg.control = .localTable) (he : s.localCode = c) : selectLocal c row s = .next (emit .quiet s) := by
  simp [selectLocal, underLegalCfg, h, hc, he]

/-! ### The statements -/

/-- Settles O25: every LOCAL instruction selects its code, and the current code applies no row. -/
theorem repeatedLocalCodeChangesNothing : Obligations.RepeatedLocalCodeChangesNothing := by
  intro c s hl hc he
  obtain ⟨row, hrow⟩ := exec_localInstr c s
  exact hrow.trans (selectLocal_repeated row hl hc he)

/-- Settles O11: the simulation, from the frame's start; a reception keeps the inputs still to come. -/
theorem frameIsItsReceivedBytes : Obligations.FrameIsItsReceivedBytes := by
  intro i s bytes henc
  obtain ⟨t, ht, hframe⟩ := receiveFrame_answers bytes s
  obtain ⟨o', hrun⟩ := run_rxEvents bytes s.outs s.inputs ht
  calc withoutOuts (exec i s)
      = .next { t with outs := [] } := by rw [exec_of_encode_frame henc, ht, withoutOuts]
    _ = withoutOuts (.next (relabel o' s.inputs t)) := by rw [← hframe.inputs]; rfl
    _ = withoutOuts (Host.Core.run core bytes.length { s with inputs := rxEvents bytes ++ s.inputs }) :=
      congrArg withoutOuts hrun.symm

end Sys2Proof.Machine
end

section
/-! SUPPORT. The statements of 30_encoding.md. Each decoder is inverted once: the words and the bytes it answers an
instruction for are those the encoder writes (`encode_of_decodeEvent`, `decodeTwoField_ok_iff`,
`decodeMultiField_ok_iff`, `encode_of_decodeCommand`). From the encoder's side, under a legal configuration a command's
code selects the command and its payload size fits the SIZE byte (`decode_commandFrame`). -/

namespace Sys2Proof

open Sys2Proof.Machine

/-! ### Event words -/

/-- A kind that carries no payload decodes from payload 0 only (R72). -/
theorem withoutPayload_ok_iff {p : Byte} {i j : Instr} : withoutPayload p i = .ok j ↔ p = 0 ∧ i = j := by
  unfold withoutPayload
  split_ifs with hp
  · simp [hp]
  · exact iff_of_false (by simp) fun h => hp h.1

/-- A LOCAL payload that decodes is the one its instruction is encoded with (R78). -/
theorem encode_of_decodeLocal (cfg : Cfg) {p : Byte} {i : Instr} (h : decodeLocal p = .ok i) :
    encode cfg i = .event (eventWord 4 p) := by
  unfold decodeLocal at h
  split_ifs at h <;> (cases h; subst p; rfl)

/-- The tag and the payload that decode are those their instruction is encoded with (R70, R72). -/
theorem encode_of_decodeEvent_eventWord (cfg : Cfg) {t : BitVec 4} {p : Byte} {i : Instr}
    (h : decodeEvent (eventWord t p) = .ok i) : encode cfg i = .event (eventWord t p) := by
  simp only [decodeEvent, tagOf_eventWord, payloadOf_eventWord] at h
  split_ifs at h with reset irq poll rx localCode setdiv
  · obtain ⟨rfl, rfl⟩ := withoutPayload_ok_iff.mp h
    rw [reset, encode]
  · obtain ⟨rfl, rfl⟩ := withoutPayload_ok_iff.mp h
    rw [irq, encode]
  · obtain ⟨rfl, rfl⟩ := withoutPayload_ok_iff.mp h
    rw [poll, encode]
  · cases h
    rw [rx, encode]
  · rw [localCode, encode_of_decodeLocal cfg h]
  · cases h
    rw [setdiv, encode]

/-- A word that names an event is that event's encoding, whatever the configuration. -/
theorem encode_of_decodeEvent (cfg : Cfg) {w : EventWord} {i : Instr} (h : decodeEvent w = .ok i) :
    encode cfg i = .event w := by
  rw [← eventWord_eta w] at h ⊢
  exact encode_of_decodeEvent_eventWord cfg h

/-! ### Two-field frames -/

/-- INDEX 0 names no output (R50 (b)). -/
theorem ne_zero_of_isIndex {cfg : Cfg} {i : Byte} (h : isIndex cfg i = true) : i ≠ 0 := by
  rintro rfl
  simp [isIndex] at h

/-- The two-field frames are the bytes the encoder writes, INDEX 0 apart (R73, R75). -/
theorem decodeTwoField_ok_iff {bytes : List Byte} {instr : Instr} : decodeTwoField bytes = .ok instr ↔
    ∃ i v, i ≠ 0 ∧ bytes = twoFieldBytes i v ∧ instr = .frame2 i v := by
  constructor
  · intro h
    unfold decodeTwoField at h
    split at h
    case h_1 b0 i v b3 =>
      split_ifs at h with hstart hend hindex
      cases h
      exact ⟨i, v, hindex, by rw [not_not.mp hstart, not_not.mp hend, twoFieldBytes], rfl⟩
    case h_2 => cases h
  · rintro ⟨i, v, hindex, rfl, rfl⟩
    simpa [decodeTwoField, twoFieldBytes] using hindex

/-! ### Multi-field frames -/

/-- The multi-field frames are a COMMAND byte and a payload as the encoder writes them, SIZE the payload's length, that
decode to a command (R74, R75). -/
theorem decodeMultiField_ok_iff {cfg : Cfg} {bytes : List Byte} {i : Instr} : decodeMultiField cfg bytes = .ok i ↔
    ∃ c data, data.length < 256 ∧ bytes = multiFieldBytes c data ∧ decodeCommand cfg c data = .ok i := by
  constructor
  · intro h
    unfold decodeMultiField at h
    split at h
    case h_1 b0 size c rest =>
      split_ifs at h with hstart hlen hend
      obtain ⟨data, rfl⟩ := List.getLast?_eq_some_iff.mp (not_not.mp hend)
      have hsize : data.length = size.toNat := by simpa using hlen
      rw [List.dropLast_concat] at h
      refine ⟨c, data, hsize ▸ size.isLt, ?_, h⟩
      rw [not_not.mp hstart, multiFieldBytes, hsize, BitVec.ofNat_toNat, BitVec.setWidth_eq]
    case h_2 => cases h
  · rintro ⟨c, data, hlen, rfl, h⟩
    rw [decodeMultiField_bytes cfg c data hlen, h]

/-- A COMMAND byte and a payload that decode are those their instruction is encoded with (R76). -/
theorem encode_of_decodeCommand {cfg : Cfg} {c : Byte} {data : List Byte} {i : Instr}
    (h : decodeCommand cfg c data = .ok i) : encode cfg i = .frame (multiFieldBytes c data) := by
  cases hc : commandOf cfg c with
  | none => simp [decodeCommand, hc] at h
  | some k =>
    rw [codeOf_of_commandOf hc]
    simp only [decodeCommand, hc] at h
    cases k with
    | init | fade | setVal =>
      simp only at h
      split at h <;> cases h
      rfl
    | setValAll =>
      split_ifs at h
      cases h
      rfl

/-- Under a legal configuration the four codes are distinct (R8 (d)), and each selects its command. -/
theorem commandOf_codeOf_of_legal {cfg : Cfg} (hl : cfgLegal cfg = true) (k : Command) :
    commandOf cfg (codeOf cfg k) = some k := by
  simp only [cfgLegal, Bool.and_eq_true, decide_eq_true_eq] at hl
  obtain ⟨⟨⟨-, hcodes⟩, -⟩, -⟩ := hl
  exact commandOf_codeOf hcodes k

/-- Under a legal configuration every payload size fits the SIZE byte (R8 (a), R205). -/
theorem esize_lt_of_legal {cfg : Cfg} (hl : cfgLegal cfg = true) (k : Command) : esize cfg k < 256 := by
  simp only [cfgLegal, Bool.and_eq_true, decide_eq_true_eq] at hl
  obtain ⟨⟨⟨⟨⟨⟨⟨-, hn⟩, -⟩, -⟩, -⟩, -⟩, -⟩, -⟩ := hl
  cases k with
  | init | fade | setVal => simp [esize]
  | setValAll => exact Nat.lt_succ_of_le hn

/-- Under a legal configuration the frame of a command, with a payload of its size, decodes to what the command makes of
the payload (R204, R205). -/
theorem decode_commandFrame {cfg : Cfg} (hl : cfgLegal cfg = true) (hp : cfg.protocol = .multiField) (k : Command)
    {data : List Byte} {i : Instr} (hd : data.length = esize cfg k)
    (hi : ∀ c, commandOf cfg c = some k → decodeCommand cfg c data = .ok i) :
    decode cfg (.frame (multiFieldBytes (codeOf cfg k) data)) = .ok i := by
  rw [decode, decodeFrame, hp]
  exact decodeMultiField_ok_iff.mpr
    ⟨_, data, hd ▸ esize_lt_of_legal hl k, rfl, hi _ (commandOf_codeOf_of_legal hl k)⟩

/-! ### The statements -/

/-- Settles O9: an event by its word, a two-field frame by its bytes, and a multi-field frame by its command. -/
theorem decodeEncodeRoundTrip : Obligations.DecodeEncodeRoundTrip := by
  intro cfg i hl hw
  cases i with
  | reset | irq | poll | local0 | local1 | local2 | local3 | local4 | local5 | local6 | local7 => rfl
  | rx b => exact decode_rxEvent cfg b
  | setdiv n => simp [encode, decode, decodeEvent]
  | frame2 i v =>
    simp only [Instr.wellFormed, Bool.and_eq_true, decide_eq_true_eq] at hw
    obtain ⟨⟨⟨hp, hindex⟩, -⟩, -⟩ := hw
    rw [encode, decode, decodeFrame, hp]
    exact decodeTwoField_ok_iff.mpr ⟨i, v, ne_zero_of_isIndex hindex, rfl, rfl⟩
  | init =>
    simp only [Instr.wellFormed, Bool.and_eq_true, decide_eq_true_eq] at hw
    obtain ⟨hp, -⟩ := hw
    exact decode_commandFrame hl hp .init rfl fun c hc => by simp [decodeCommand, hc]
  | fade i lo hi st =>
    simp only [Instr.wellFormed, Bool.and_eq_true, decide_eq_true_eq] at hw
    obtain ⟨⟨⟨⟨⟨⟨hp, -⟩, -⟩, -⟩, -⟩, -⟩, -⟩ := hw
    exact decode_commandFrame hl hp .fade rfl fun c hc => by simp [decodeCommand, hc]
  | setval i v =>
    simp only [Instr.wellFormed, Bool.and_eq_true, decide_eq_true_eq] at hw
    obtain ⟨⟨⟨⟨hp, -⟩, -⟩, -⟩, -⟩ := hw
    exact decode_commandFrame hl hp .setVal rfl fun c hc => by simp [decodeCommand, hc]
  | setall vs =>
    simp only [Instr.wellFormed, Bool.and_eq_true, decide_eq_true_eq] at hw
    obtain ⟨⟨⟨⟨hp, -⟩, hvs⟩, -⟩, -⟩ := hw
    exact decode_commandFrame hl hp .setValAll hvs fun c hc => by simp [decodeCommand, hc, hvs]

/-- Settles O10: by the inversion of each decoder. -/
theorem encodeDecodeRoundTrip : Obligations.EncodeDecodeRoundTrip := by
  intro cfg x i h
  cases x with
  | event w => exact encode_of_decodeEvent cfg h
  | frame bytes =>
    rw [decode, decodeFrame] at h
    split at h
    case h_1 =>
      obtain ⟨i, v, -, rfl, rfl⟩ := decodeTwoField_ok_iff.mp h
      rfl
    case h_2 =>
      obtain ⟨c, data, -, rfl, hcommand⟩ := decodeMultiField_ok_iff.mp h
      exact encode_of_decodeCommand hcommand

/-- Settles O7: a step without an input is the model's idle cycle (R238). -/
theorem idleCycleChangesNothing : Obligations.IdleCycleChangesNothing := fun _ h => step_of_no_input h

/-- Settles O8: the words and frames are fixed, so the decoder evaluates on each. -/
theorem tableWordsDecode : Obligations.TableWordsDecode := by
  unfold Obligations.TableWordsDecode
  decide

end Sys2Proof
end

section
/-! SUPPORT. The statements of 40_timing_base.md, and R131 of 41_effect_engine.md that rests on them. What a TIMER_IRQ
leaves is said once as R100 says it (`exec_irq_counts`), and once more relative to the start of a run of TIMER_IRQs and
POLLs with the divider held (`Elapsed.irq`): there the count goes on by the number of TIMER_IRQs modulo the threshold,
and a tick is flagged exactly where the total is a multiple of it. R104 and R105 are the run with no POLL in it; in a
round of R131 the channels show one tick from there on, once the pending tick, if there is one, is consumed
(`InRound`). -/

namespace Sys2Proof.Machine

/-! ### The Timing Base's events under a well-formed configuration -/

/-- Under a well-formed configuration the effective threshold is positive and fits the counter (R8 (c), R101). -/
theorem thrEff_of_legal {cfg : Cfg} (n : Byte) (hl : cfgLegal cfg = true) :
    1 ≤ thrEff cfg.tickThreshold n ∧ thrEff cfg.tickThreshold n ≤ 65535 := by
  obtain ⟨-, -, ⟨hlo, hhi⟩, -⟩ := (configurationLegality cfg).1 hl
  obtain ⟨hone, hle⟩ := thrEff_bounds n hlo
  exact ⟨hone, hle.trans hhi⟩

/-- R100, from any count. -/
theorem exec_irq_counts {s : State} (hl : cfgLegal s.cfg = true) :
    ∃ t, exec .irq s = .next t ∧
      t = { s with tickCnt := t.tickCnt, tickFlag := t.tickFlag, outs := [.quiet] } ∧
      t.tickCnt.toNat = (if thrEff s.cfg.tickThreshold s.divN ≤ s.tickCnt.toNat + 1
        then (s.tickCnt.toNat + 1) % thrEff s.cfg.tickThreshold s.divN else s.tickCnt.toNat + 1) ∧
      t.tickFlag = (if thrEff s.cfg.tickThreshold s.divN ≤ s.tickCnt.toNat + 1 then true else s.tickFlag) ∧
      t.tickCnt.toNat < thrEff s.cfg.tickThreshold s.divN := by
  obtain ⟨hone, hmax⟩ := thrEff_of_legal s.divN hl
  obtain ⟨hcount, hlt⟩ := nextCount_toNat _ s.tickCnt hone hmax
  refine ⟨_, execIrq_next s hl, rfl, hcount, ?_, hlt⟩
  by_cases hreach : thrEff s.cfg.tickThreshold s.divN ≤ s.tickCnt.toNat + 1 <;> simp [tickReached, hreach]

/-- SET_DIV writes the divider alone (R102). -/
theorem exec_setdiv_next (n : Byte) {s : State} (hl : cfgLegal s.cfg = true) :
    exec (.setdiv n) s = .next { s with divN := n, outs := [.quiet] } := if_pos hl

/-- A POLL that finds no tick changes no register (R103, R125). -/
theorem exec_poll_of_no_tick {s : State} (hl : cfgLegal s.cfg = true) (hf : s.tickFlag = false) :
    exec .poll s = .next { s with outs := [.quiet] } := by
  refine (execPoll_next s hl).trans ?_
  rw [hf, advance_false, List.map_id]
  rfl

/-- An answered instruction leads a run on from the state it leaves. -/
theorem execAll_cons {i : Instr} {s t : State} (is : List Instr) (h : exec i s = .next t) :
    execAll (i :: is) s = execAll is t := by
  rw [execAll, h]

/-- The word of SET_DIV is its tag and the divider (R70). -/
theorem setdivWord_eq (n : Byte) : BitVec.ofNat 12 (0x500 + n.toNat) = eventWord 5 n := by
  have hn := n.isLt
  have happend : (eventWord 5 n).toNat = 5 <<< 8 ||| n.toNat := BitVec.toNat_append 5 n
  apply BitVec.eq_of_toNat_eq
  rw [happend, Nat.shiftLeft_eq, Nat.mul_comm, ← Nat.two_pow_add_eq_or_of_lt hn, BitVec.toNat_ofNat]
  omega

/-! ### The count modulo the threshold -/

/-- A count that is `n` modulo the threshold reaches it where `n + 1` is a multiple of it. -/
theorem le_mod_succ_iff {thr n : Nat} (h : 1 ≤ thr) : thr ≤ n % thr + 1 ↔ (n + 1) % thr = 0 := by
  obtain ⟨b, rfl⟩ := Nat.exists_eq_add_of_le' h
  have hlt := Nat.mod_lt n h
  rw [Nat.succ_mod_succ_eq_zero_iff]
  omega

/-- A count that is `n` modulo the threshold is `n + 1` modulo it after a TIMER_IRQ (R100, R105). -/
theorem count_mod_succ {thr n : Nat} :
    (if thr ≤ n % thr + 1 then (n % thr + 1) % thr else n % thr + 1) = (n + 1) % thr := by
  split
  case isTrue => exact Nat.mod_add_mod n thr 1
  case isFalse hlt => rw [← Nat.mod_add_mod, Nat.mod_eq_of_lt (Nat.lt_of_not_le hlt)]

/-- A total passes from below the threshold to it at a multiple of it. -/
theorem le_succ_iff_le_or_mod {thr n : Nat} (h : 1 ≤ thr) : thr ≤ n + 1 ↔ thr ≤ n ∨ (n + 1) % thr = 0 := by
  constructor
  · intro hle
    rcases Nat.lt_or_eq_of_le hle with hlt | rfl
    · exact .inl (Nat.le_of_lt_succ hlt)
    · exact .inr (Nat.mod_self _)
  · rintro (hle | hmod)
    · exact hle.trans (Nat.le_succ n)
    · exact Nat.le_of_dvd n.succ_pos (Nat.dvd_of_mod_eq_zero hmod)

/-! ### A run of TIMER_IRQs and POLLs with the divider held -/

/-- `n` TIMER_IRQs and any POLLs lead from `s` to `u`, as far as the counter goes: only the Timing Base's counter and
flag, the channel file and the output records may differ, and the counter has gone on by `n` modulo the threshold. -/
structure Elapsed (s : State) (n : Nat) (u : State) : Prop where
  frame : u = { s with tickCnt := u.tickCnt, tickFlag := u.tickFlag, ch := u.ch, outs := u.outs }
  count : u.tickCnt.toNat = (s.tickCnt.toNat + n) % thrEff s.cfg.tickThreshold s.divN

theorem Elapsed.refl {s : State} (hc : s.tickCnt.toNat < thrEff s.cfg.tickThreshold s.divN) : Elapsed s 0 s :=
  ⟨rfl, (Nat.mod_eq_of_lt hc).symm⟩

theorem Elapsed.cfg {s u : State} {n : Nat} (h : Elapsed s n u) : u.cfg = s.cfg := by rw [h.frame]

theorem Elapsed.divN {s u : State} {n : Nat} (h : Elapsed s n u) : u.divN = s.divN := by rw [h.frame]

/-- One more TIMER_IRQ flags a tick exactly where the total is a multiple of the threshold (R100, R105). -/
theorem Elapsed.irq {s u : State} {n : Nat} (hl : cfgLegal s.cfg = true) (h : Elapsed s n u) :
    ∃ v, exec .irq u = .next v ∧ Elapsed s (n + 1) v ∧ v.ch = u.ch ∧
      v.tickFlag = (u.tickFlag || decide ((s.tickCnt.toNat + n + 1) % thrEff s.cfg.tickThreshold s.divN = 0)) := by
  obtain ⟨v, hexec, hframe, hcount, hflag, -⟩ := exec_irq_counts (h.cfg ▸ hl : cfgLegal u.cfg = true)
  rw [h.cfg, h.divN, h.count] at hcount hflag
  refine ⟨v, hexec, ⟨?_, hcount.trans count_mod_succ⟩, by rw [hframe], ?_⟩
  · rw [hframe, h.frame]
  · simp only [hflag, le_mod_succ_iff (thrEff_of_legal s.divN hl).1]
    split
    case isTrue hreach => rw [decide_eq_true hreach, Bool.or_true]
    case isFalse hreach => rw [decide_eq_false hreach, Bool.or_false]

/-- A POLL does not touch the count (R103, R130). -/
theorem Elapsed.poll {s u : State} {n : Nat} (hl : cfgLegal s.cfg = true) (h : Elapsed s n u) :
    ∃ v, exec .poll u = .next v ∧ Elapsed s n v ∧ v.ch = u.ch.map (advance u.tickFlag) ∧ v.tickFlag = false := by
  refine ⟨_, execPoll_next u (h.cfg ▸ hl), ⟨?_, h.count⟩, rfl, rfl⟩
  rw [h.frame]

/-- `k` TIMER_IRQs with no POLL between them: a tick is flagged once the total is at the threshold or above it, and it
stays one tick (R104). -/
theorem execAll_irqs {s : State} (hl : cfgLegal s.cfg = true)
    (hc : s.tickCnt.toNat < thrEff s.cfg.tickThreshold s.divN) (k : Nat) :
    ∃ t, execAll (List.replicate k .irq) s = .next t ∧ Elapsed s k t ∧ t.ch = s.ch ∧
      t.tickFlag = (s.tickFlag || decide (thrEff s.cfg.tickThreshold s.divN ≤ s.tickCnt.toNat + k)) := by
  induction k with
  | zero => exact ⟨s, rfl, .refl hc, rfl, by simp [hc]⟩
  | succ k ih =>
    obtain ⟨u, hrun, helapsed, hch, hflag⟩ := ih
    obtain ⟨v, hexec, hnext, hchv, hflagv⟩ := helapsed.irq hl
    refine ⟨v, ?_, hnext, hchv.trans hch, ?_⟩
    · rw [List.replicate_succ', execAll_append _ _ s u hrun, execAll_cons [] hexec, execAll]
    · simp only [hflagv, hflag, Bool.or_assoc, ← Bool.decide_or, ← Nat.add_assoc,
        le_succ_iff_le_or_mod (thrEff_of_legal s.divN hl).1]

/-! ### A round of threshold many TIMER_IRQs with POLLs between them -/

/-- `j` TIMER_IRQs and any POLLs of a round lead from `s` to `u`: a tick is pending only if the round's threshold has
been reached, and with the pending tick consumed the channels show one tick if it has been, none before. -/
structure InRound (s : State) (j : Nat) (u : State) : Prop extends Elapsed s j u where
  pending : u.tickFlag = true → thrEff s.cfg.tickThreshold s.divN ≤ s.tickCnt.toNat + j
  shown : u.ch.map (advance u.tickFlag) =
    s.ch.map (advance (decide (thrEff s.cfg.tickThreshold s.divN ≤ s.tickCnt.toNat + j)))

theorem InRound.refl {s : State} (hc : s.tickCnt.toNat < thrEff s.cfg.tickThreshold s.divN)
    (hf : s.tickFlag = false) : InRound s 0 s :=
  ⟨.refl hc, by simp [hf], by rw [hf, Nat.add_zero, decide_eq_false hc.not_ge]⟩

/-- A TIMER_IRQ that stays within two thresholds: it reaches the threshold at most once, with no tick pending. -/
theorem InRound.irq {s u : State} {j : Nat} (hl : cfgLegal s.cfg = true) (h : InRound s j u)
    (hj : s.tickCnt.toNat + j + 1 < 2 * thrEff s.cfg.tickThreshold s.divN) :
    ∃ v, exec .irq u = .next v ∧ InRound s (j + 1) v := by
  obtain ⟨v, hexec, helapsed, hch, hflag⟩ := h.toElapsed.irq hl
  have hpending := h.pending
  have hshown := h.shown
  have hstep := le_succ_iff_le_or_mod (n := s.tickCnt.toNat + j) (thrEff_of_legal s.divN hl).1
  refine ⟨v, hexec, helapsed, ?_, ?_⟩ <;> rw [hflag, ← Nat.add_assoc]
  · rw [hstep, Bool.or_eq_true, decide_eq_true_eq]
    exact Or.imp_left hpending
  · by_cases hreach : (s.tickCnt.toNat + j + 1) % thrEff s.cfg.tickThreshold s.divN = 0
    · have hthr := Nat.eq_of_dvd_of_lt_two_mul (Nat.succ_ne_zero _) (Nat.dvd_of_mod_eq_zero hreach) hj
      have hbefore : ¬ thrEff s.cfg.tickThreshold s.divN ≤ s.tickCnt.toNat + j := by omega
      have hnone : u.tickFlag = false := Bool.eq_false_iff.2 fun hf => hbefore (hpending hf)
      simp only [hnone, hbefore, decide_false, advance_false, List.map_id] at hshown
      rw [hch, hshown]
      simp [hstep, hreach]
    · simpa [hch, hstep, hreach] using hshown

/-- A POLL consumes the pending tick, if there is one; what the channels show with it consumed stays (R104, R125). -/
theorem InRound.poll {s u : State} {j : Nat} (hl : cfgLegal s.cfg = true) (h : InRound s j u) :
    ∃ v, exec .poll u = .next v ∧ InRound s j v ∧ v.tickFlag = false := by
  obtain ⟨v, hexec, helapsed, hch, hflag⟩ := h.toElapsed.poll hl
  refine ⟨v, hexec, ⟨helapsed, by simp [hflag], ?_⟩, hflag⟩
  rw [hflag, advance_false, List.map_id, hch, h.shown]

theorem InRound.polls {s u : State} {j : Nat} (hl : cfgLegal s.cfg = true) (h : InRound s j u) (m : Nat) :
    ∃ v, execAll (List.replicate m .poll) u = .next v ∧ InRound s j v := by
  induction m generalizing u with
  | zero => exact ⟨u, rfl, h⟩
  | succ m ih =>
    obtain ⟨v, hexec, hv, -⟩ := h.poll hl
    obtain ⟨w, hrun, hw⟩ := ih hv
    exact ⟨w, (execAll_cons _ hexec).trans hrun, hw⟩

/-- TIMER_IRQs, each followed by as many POLLs as the list says. -/
def irqsWithPolls (r : List Nat) : List Instr := (r.map fun m => Instr.irq :: List.replicate m Instr.poll).flatten

theorem irqsWithPolls_cons (m : Nat) (r : List Nat) :
    irqsWithPolls (m :: r) = .irq :: (List.replicate m .poll ++ irqsWithPolls r) := rfl

/-- A run of TIMER_IRQs, wherever its POLLs stand, that stays within two thresholds. -/
theorem InRound.run {s u : State} {j : Nat} (hl : cfgLegal s.cfg = true) (h : InRound s j u) (r : List Nat)
    (hr : s.tickCnt.toNat + j + r.length < 2 * thrEff s.cfg.tickThreshold s.divN) :
    ∃ v, execAll (irqsWithPolls r) u = .next v ∧ InRound s (j + r.length) v := by
  induction r generalizing j u with
  | nil => exact ⟨u, rfl, h⟩
  | cons m r ih =>
    rw [List.length_cons] at hr ⊢
    obtain ⟨v, hirq, hv⟩ := h.irq hl (by omega)
    obtain ⟨w, hpolls, hw⟩ := hv.polls hl m
    obtain ⟨x, hrest, hx⟩ := ih hw (by omega)
    refine ⟨x, ?_, by rwa [Nat.add_comm r.length, ← Nat.add_assoc]⟩
    rw [irqsWithPolls_cons, execAll_cons _ hirq, execAll_append _ _ v w hpolls, hrest]

/-- A full round with its last POLL leaves the counter and the flag as they were, and one tick in every channel. -/
theorem execAll_round {s : State} (hl : cfgLegal s.cfg = true)
    (hc : s.tickCnt.toNat < thrEff s.cfg.tickThreshold s.divN) (hf : s.tickFlag = false) (r : List Nat)
    (hr : r.length = thrEff s.cfg.tickThreshold s.divN) :
    ∃ o, execAll (irqsWithPolls r ++ [.poll]) s = .next { s with ch := s.ch.map (advance true), outs := o } := by
  obtain ⟨u, hrun, hu⟩ := (InRound.refl hc hf).run hl r (by omega)
  obtain ⟨v, hpoll, hv, hflag⟩ := hu.poll hl
  rw [Nat.zero_add, hr] at hv
  have hcount : v.tickCnt = s.tickCnt := by
    apply BitVec.eq_of_toNat_eq
    rw [hv.count, Nat.add_mod_right, Nat.mod_eq_of_lt hc]
  have hch : v.ch = s.ch.map (advance true) := by
    simpa [hflag, advance_false] using hv.shown
  refine ⟨v.outs, ?_⟩
  rw [execAll_append _ _ s u hrun, execAll_cons [] hpoll, execAll, hv.frame, hcount, hflag, hch, hf]

/-- Rounds one after the other: one tick in every channel for each of them (R131). -/
theorem execAll_rounds {s : State} (hl : cfgLegal s.cfg = true)
    (hc : s.tickCnt.toNat < thrEff s.cfg.tickThreshold s.divN) (hf : s.tickFlag = false) (rounds : List (List Nat))
    (hr : ∀ r ∈ rounds, r.length = thrEff s.cfg.tickThreshold s.divN) :
    ∃ o, execAll (rounds.map fun r => irqsWithPolls r ++ [.poll]).flatten s =
      .next { s with ch := s.ch.map (afterTicks rounds.length), outs := o } := by
  induction rounds generalizing s with
  | nil =>
    refine ⟨s.outs, ?_⟩
    show Host.Outcome.next s = .next { s with ch := s.ch.map id }
    rw [List.map_id]
  | cons r rounds ih =>
    rw [List.forall_mem_cons] at hr
    obtain ⟨o, hround⟩ := execAll_round hl hc hf r hr.1
    obtain ⟨o', hrest⟩ := ih (s := { s with ch := s.ch.map (advance true), outs := o }) hl hc hf hr.2
    refine ⟨o', ?_⟩
    rw [List.map_cons, List.flatten_cons, execAll_append _ _ s _ hround, hrest, List.map_map]
    rfl

/-! ### The statements -/

/-- Settles O13: by the two cases of R101. -/
theorem effectiveThreshold : Obligations.EffectiveThreshold := fun _ n hT =>
  ⟨if_pos rfl, fun hn => if_neg hn, thrEff_bounds n hT⟩

/-- Settles O12: R100 as `exec_irq_counts` has it, and the counter's row of R37. -/
theorem timerIrqCountsAndFlags : Obligations.TimerIrqCountsAndFlags := by
  refine ⟨by decide, ?_, fun i s t h => (exec_writeAccess i h).tickCnt⟩
  rintro s thr c hl hthr rfl
  obtain rfl : thr = thrEff s.cfg.tickThreshold s.divN := hthr
  obtain ⟨t, hexec, hframe, hcount, hflag, hlt⟩ := exec_irq_counts hl
  obtain ⟨-, hmax⟩ := thrEff_of_legal s.divN hl
  exact ⟨t, hexec, hframe, hcount, hflag, hlt, by omega⟩

/-- Settles O14: R100 in the state SET_DIV leaves, whose count is the one before it. -/
theorem setDivTakesEffectAtTheNextIrq : Obligations.SetDivTakesEffectAtTheNextIrq := by
  intro n s hl
  obtain ⟨t, hexec, hframe, hcount, hflag, -⟩ :=
    exec_irq_counts (s := { s with divN := n, outs := [.quiet] }) hl
  refine ⟨by simp [setdivWord_eq, decodeEvent], exec_setdiv_next n hl, ⟨t, ?_, hframe, hcount, hflag⟩,
    fun i c => ⟨rfl, rfl, rfl⟩⟩
  rw [execAll_cons _ (exec_setdiv_next n hl), execAll_cons _ hexec, execAll]

/-- Settles O16: the run of TIMER_IRQs alone. -/
theorem tickRate : Obligations.TickRate := by
  rintro s k thr hl rfl hc
  obtain ⟨t, hrun, helapsed, -, hflag⟩ := execAll_irqs hl hc k
  refine ⟨t, hrun, helapsed.count, by simp [hflag], ?_⟩
  rw [tickReached, decide_eq_true_eq, helapsed.count, le_mod_succ_iff (thrEff_of_legal s.divN hl).1]

/-- Settles O15: after the run of TIMER_IRQs one POLL finds the flag, and clears it for the next. -/
theorem ticksCoalesce : Obligations.TicksCoalesce := by
  intro s k hl hc
  obtain ⟨u, hrun, helapsed, hch, hflag⟩ := execAll_irqs hl hc k
  have hlu : cfgLegal u.cfg = true := helapsed.cfg ▸ hl
  have hrunPoll := (execAll_append _ _ s u hrun).trans (execAll_cons (i := .poll) [] (execPoll_next u hlu))
  refine ⟨_, _, hrunPoll, exec_poll_of_no_tick hlu rfl, ⟨?_, ?_⟩, rfl, rfl⟩
  · rw [hch, hflag]
  · rw [hflag]

/-- Settles O21: round after round. -/
theorem pollingIntervalIndependence : Obligations.PollingIntervalIndependence := by
  rintro s thr rounds hl rfl hc hf hr
  obtain ⟨o, hrun⟩ := execAll_rounds hl hc hf rounds hr
  exact ⟨_, hrun, rfl⟩

end Sys2Proof.Machine
end

section
/-! SUPPORT. The statements of 41_effect_engine.md, R131 and R134 apart. A tick of a channel is said once for each mode
(`advance_of_off` to `advance_of_fade`). R133 is one invariant: a fade stands at a position of its cycle (`OnCycle`),
which one tick moves on by one (`OnCycle.tick`). The cycle has `n` ticks up and `n` down, `n` the number of steps that
reach the ceiling from the floor, so both cases of R133 are readings of it, with `n = q` and with `n = q + 1`. The
position fixes the direction of the next tick (stage 1 of R129), not the phase: a fade at the ceiling falls next
whatever its phase, which is why a rising start at the ceiling is at the same position as a falling one. A row of the
local selector is one write of the divider and the channel file (`selectLocal_row`, `stripOff_eq` to `stripFade_eq`). -/

namespace Sys2Proof.Machine

/-! ### A tick by the channel's mode -/

theorem advance_of_off {c : Channel} (hm : c.mode = .off) : advance true c = c := by
  simp [advance, hm]

theorem advance_of_solid {c : Channel} (hm : c.mode = .solid) : advance true c = c := by
  simp [advance, hm]

theorem advance_of_flash {c : Channel} (hm : c.mode = .flash) : advance true c = advanceFlash c := by
  simp [advance, hm]

theorem advance_of_fade {c : Channel} (hm : c.mode = .fade) : advance true c = advanceFade c := by
  simp [advance, hm]

/-- R128 in the new phase: the model writes the value by the phase before the tick. -/
theorem advanceFlash_eq (c : Channel) :
    advanceFlash c = { c with phase := !c.phase, value := if (!c.phase) = true then c.color else 0 } := by
  unfold advanceFlash
  cases c.phase <;> rfl

/-- Stage 2 of R129 with the clamp outermost. -/
theorem fadeValue_eq (c : Channel) :
    fadeValue c = min (max (if fadeDirection c then (c.value.toNat : Int) - c.step.toNat
      else (c.value.toNat : Int) + c.step.toNat) c.low.toNat) c.high.toNat := by
  unfold fadeValue clamp
  split <;> rfl

/-! ### The cycle of a fade -/

/-- Stage 1 of R129 with the floor below the ceiling: at the ceiling the next tick falls, at the floor it rises, and
between them it follows the phase. -/
theorem fadeDirection_iff {c : Channel} (h : c.low.toNat < c.high.toNat) :
    fadeDirection c = true ↔ c.high.toNat ≤ c.value.toNat ∨ c.phase = true ∧ c.low.toNat < c.value.toNat := by
  unfold fadeDirection
  cases c.phase with
  | false => simp
  | true =>
    by_cases hfloor : c.value.toNat ≤ c.low.toNat
    · simp [hfloor, hfloor.trans_lt h]
    · simp [hfloor, Nat.lt_of_not_le hfloor]

/-- The bounds and the step of a fade that reaches its ceiling from its floor in `n` ticks, and not in fewer. -/
structure FadeCycle (lo hi st n : Nat) : Prop where
  bounds : lo < hi
  reaches : hi ≤ lo + n * st
  notBefore : lo + n * st < hi + st

/-- The value at a position of the cycle: from the floor up at the first `n`, from the ceiling down at the `n` after
them (R133). -/
def cycleValue (lo hi st n u : Nat) : Nat := if u < n then lo + u * st else hi - (u - n) * st

/-- The fade of these bounds and this step stands at position `u` of its cycle. -/
structure OnCycle (lo hi st n u : Nat) (c : Channel) : Prop where
  mode : c.mode = .fade
  low : c.low.toNat = lo
  high : c.high.toNat = hi
  step : c.step.toNat = st
  value : c.value.toNat = cycleValue lo hi st n u
  falls : fadeDirection c = true ↔ n ≤ u

section
variable {lo hi st n : Nat}

/-- A cycle has ticks, and they move the value. -/
theorem FadeCycle.pos (h : FadeCycle lo hi st n) : 0 < n ∧ 0 < st := by
  obtain ⟨hlt, hreach, -⟩ := h
  exact CanonicallyOrderedAdd.mul_pos.1 (show 0 < n * st by omega)

/-- Fewer than `n` steps stay strictly inside the span. -/
theorem FadeCycle.lt_of_lt (h : FadeCycle lo hi st n) {i : Nat} (hin : i < n) : lo + i * st < hi := by
  have hle : (i + 1) * st ≤ n * st := Nat.mul_le_mul_right st hin
  have := h.notBefore
  rw [Nat.succ_mul] at hle
  omega

theorem cycleValue_rising {u : Nat} (hu : u < n) : cycleValue lo hi st n u = lo + u * st := if_pos hu

theorem cycleValue_falling (i : Nat) : cycleValue lo hi st n (n + i) = hi - i * st := by
  rw [cycleValue, if_neg (Nat.not_lt.2 (Nat.le_add_right n i)), Nat.add_sub_cancel_left]

theorem cycleValue_ceiling : cycleValue lo hi st n n = hi := by
  have htop := cycleValue_falling (lo := lo) (hi := hi) (st := st) (n := n) 0
  rwa [Nat.add_zero, Nat.zero_mul, Nat.sub_zero] at htop

/-- The cycle never leaves its bounds. -/
theorem FadeCycle.value_mem (h : FadeCycle lo hi st n) {u : Nat} (hu : u < 2 * n) :
    lo ≤ cycleValue lo hi st n u ∧ cycleValue lo hi st n u ≤ hi := by
  rcases Nat.lt_or_ge u n with hrise | hfall
  · rw [cycleValue_rising hrise]
    exact ⟨Nat.le_add_right _ _, (h.lt_of_lt hrise).le⟩
  · obtain ⟨i, rfl⟩ := Nat.exists_eq_add_of_le hfall
    have := h.lt_of_lt (i := i) (by omega)
    rw [cycleValue_falling]
    omega

/-- The floor is at position 0 only. -/
theorem FadeCycle.value_eq_low_iff (h : FadeCycle lo hi st n) {u : Nat} (hu : u < 2 * n) :
    cycleValue lo hi st n u = lo ↔ u = 0 := by
  rcases Nat.lt_or_ge u n with hrise | hfall
  · rw [cycleValue_rising hrise, Nat.add_eq_left, Nat.mul_eq_zero, or_iff_left h.pos.2.ne']
  · obtain ⟨i, rfl⟩ := Nat.exists_eq_add_of_le hfall
    have := h.lt_of_lt (i := i) (by omega)
    have := h.pos
    rw [cycleValue_falling]
    omega

/-- The ceiling is at position `n` only. -/
theorem FadeCycle.value_eq_high_iff (h : FadeCycle lo hi st n) {u : Nat} (hu : u < 2 * n) :
    cycleValue lo hi st n u = hi ↔ u = n := by
  rcases Nat.lt_or_ge u n with hrise | hfall
  · rw [cycleValue_rising hrise]
    exact iff_of_false (h.lt_of_lt hrise).ne hrise.ne
  · obtain ⟨i, rfl⟩ := Nat.exists_eq_add_of_le hfall
    have := h.lt_of_lt (i := i) (by omega)
    have hzero : i * st = 0 ↔ i = 0 := by rw [Nat.mul_eq_zero, or_iff_left h.pos.2.ne']
    rw [cycleValue_falling]
    omega

/-- The value at the next position of the rising run: one step up, cut off at the ceiling. -/
theorem FadeCycle.value_succ_rising (h : FadeCycle lo hi st n) {u : Nat} (hu : u < n) :
    cycleValue lo hi st n (u + 1) = max lo (min hi (cycleValue lo hi st n u + st)) := by
  have hnext := Nat.add_one_mul u st
  rw [cycleValue_rising hu]
  rcases Nat.lt_or_eq_of_le (Nat.add_one_le_of_lt hu) with hlt | rfl
  · have := h.lt_of_lt hlt
    rw [cycleValue_rising hlt]
    omega
  · obtain ⟨hlt, hreach, -⟩ := h
    rw [cycleValue_ceiling]
    omega

/-- The value at the next position of the falling run, which ends at position 0: one step down, cut off at the floor. -/
theorem FadeCycle.value_succ_falling (h : FadeCycle lo hi st n) {i : Nat} (hin : i < n) :
    cycleValue lo hi st n ((n + i + 1) % (2 * n)) = min hi (max lo (cycleValue lo hi st n (n + i) - st)) := by
  have hnext := Nat.add_one_mul i st
  rw [cycleValue_falling]
  rcases Nat.lt_or_eq_of_le (Nat.add_one_le_of_lt hin) with hlt | hlast
  · have := h.lt_of_lt hlt
    rw [Nat.mod_eq_of_lt (by omega), Nat.add_assoc, cycleValue_falling]
    omega
  · have hreach := h.reaches
    have := h.bounds
    rw [show n + i + 1 = 2 * n by omega, Nat.mod_self, cycleValue_rising h.pos.1]
    rw [← hlast] at hreach
    omega

/-- The position after `u`: the next one, or position 0 after the last. -/
theorem succ_position {u m : Nat} (hu : u < m) :
    u + 1 < m ∧ (u + 1) % m = u + 1 ∨ u + 1 = m ∧ (u + 1) % m = 0 := by
  rcases Nat.lt_or_eq_of_le (Nat.add_one_le_of_lt hu) with hlt | rfl
  · exact .inl ⟨hlt, Nat.mod_eq_of_lt hlt⟩
  · exact .inr ⟨rfl, Nat.mod_self _⟩

/-- One tick moves a fade on to the next position of its cycle. -/
theorem OnCycle.tick (h : FadeCycle lo hi st n) {u : Nat} (hu : u < 2 * n) {c : Channel}
    (hc : OnCycle lo hi st n u c) : OnCycle lo hi st n ((u + 1) % (2 * n)) (advance true c) := by
  obtain ⟨hmode, rfl, rfl, rfl, hvalue, hfalls⟩ := hc
  obtain ⟨mode, low, high, step, rising, falling, phase⟩ := advance_fade c hmode h.bounds.le
  have hpos := succ_position hu
  have hnext : (u + 1) % (2 * n) < 2 * n := Nat.mod_lt _ (by omega)
  have hv : (advance true c).value.toNat =
      cycleValue c.low.toNat c.high.toNat c.step.toNat n ((u + 1) % (2 * n)) := by
    rcases Nat.lt_or_ge u n with hrise | hfall
    · have hd : fadeDirection c = false := Bool.eq_false_iff.2 fun hd => hrise.not_ge (hfalls.1 hd)
      rw [rising hd, hvalue, Nat.mod_eq_of_lt (by omega), h.value_succ_rising hrise]
    · obtain ⟨i, rfl⟩ := Nat.exists_eq_add_of_le hfall
      rw [falling (hfalls.2 hfall), hvalue, h.value_succ_falling (by omega)]
  have hfloor := h.value_eq_low_iff hnext
  have hceiling := h.value_eq_high_iff hnext
  rw [← hv] at hfloor hceiling
  refine ⟨mode, by rw [low], by rw [high], by rw [step], hv, ?_⟩
  have hb := h.bounds
  have hmem := h.value_mem hnext
  rw [← hv] at hmem
  rw [fadeDirection_iff (by rwa [low, high]), low, high, phase]
  split_ifs with hl hh
  · simp only [false_and, or_false]
    omega
  · simp only [true_and]
    omega
  · rw [hfalls]
    omega

/-- `k` ticks move a fade on by `k` positions, round and round its cycle (R133). -/
theorem OnCycle.ticks (h : FadeCycle lo hi st n) {u : Nat} (hu : u < 2 * n) {c : Channel}
    (hc : OnCycle lo hi st n u c) (k : Nat) : OnCycle lo hi st n ((k + u) % (2 * n)) (afterTicks k c) := by
  induction k with
  | zero => rwa [Nat.zero_add, Nat.mod_eq_of_lt hu]
  | succ k ih =>
    have hnext := ih.tick h (Nat.mod_lt _ (Nat.zero_lt_of_lt hu))
    rwa [Nat.mod_add_mod, Nat.add_right_comm, ← afterTicks_succ] at hnext

/-! ### The positions a fade starts at -/

variable {c : Channel}

/-- A rising start below the ceiling. -/
theorem OnCycle.of_rising (h : FadeCycle c.low.toNat c.high.toNat c.step.toNat n) (hm : c.mode = .fade) {j : Nat}
    (hj : j < n) (hv : c.value.toNat = c.low.toNat + j * c.step.toNat) (hp : c.phase = false) :
    OnCycle c.low.toNat c.high.toNat c.step.toNat n j c := by
  refine ⟨hm, rfl, rfl, rfl, hv.trans (cycleValue_rising hj).symm, ?_⟩
  have := h.lt_of_lt hj
  rw [fadeDirection_iff h.bounds, hp]
  simp only [Bool.false_eq_true, false_and, or_false]
  omega

/-- A start at the ceiling, in either phase. -/
theorem OnCycle.of_ceiling (h : FadeCycle c.low.toNat c.high.toNat c.step.toNat n) (hm : c.mode = .fade)
    (hv : c.value.toNat = c.high.toNat) : OnCycle c.low.toNat c.high.toNat c.step.toNat n n c := by
  refine ⟨hm, rfl, rfl, rfl, hv.trans cycleValue_ceiling.symm, ?_⟩
  rw [fadeDirection_iff h.bounds]
  exact iff_of_true (.inl hv.ge) le_rfl

/-- A falling start. -/
theorem OnCycle.of_falling (h : FadeCycle c.low.toNat c.high.toNat c.step.toNat n) (hm : c.mode = .fade) {i : Nat}
    (hin : i < n) (hv : c.value.toNat = c.high.toNat - i * c.step.toNat) (hp : c.phase = true) :
    OnCycle c.low.toNat c.high.toNat c.step.toNat n (n + i) c := by
  refine ⟨hm, rfl, rfl, rfl, hv.trans (cycleValue_falling i).symm, ?_⟩
  have := h.lt_of_lt hin
  rw [fadeDirection_iff h.bounds, hp]
  simp only [true_and]
  omega

/-! ### The two cycles of R133 -/

/-- A step that divides the span reaches the ceiling in `q` ticks. -/
theorem FadeCycle.of_dvd (hlt : lo < hi) (hst : 1 ≤ st) (hr : (hi - lo) % st = 0) :
    FadeCycle lo hi st ((hi - lo) / st) := by
  have hspan := Nat.div_mul_cancel (Nat.dvd_of_mod_eq_zero hr)
  exact ⟨hlt, by omega, by omega⟩

/-- A step that does not divide the span reaches the ceiling in `q + 1` ticks, the last of them cut short. -/
theorem FadeCycle.of_not_dvd (hst : 1 ≤ st) (hr : (hi - lo) % st ≠ 0) : FadeCycle lo hi st ((hi - lo) / st + 1) := by
  have hspan := Nat.div_add_mod' (hi - lo) st
  have hrest := Nat.mod_lt (hi - lo) hst
  have hnext := Nat.add_one_mul ((hi - lo) / st) st
  exact ⟨by omega, by omega, by omega⟩

/-- Where the step divides the span, the falling run counted from the floor up. -/
theorem cycleValue_of_dvd (hspan : hi = lo + n * st) {u : Nat} (hu : u < 2 * n) :
    cycleValue lo hi st n u = lo + st * (if u ≤ n then u else 2 * n - u) := by
  rcases Nat.lt_or_ge u n with hrise | hfall
  · rw [cycleValue_rising hrise, if_pos hrise.le, Nat.mul_comm]
  · obtain ⟨i, rfl⟩ := Nat.exists_eq_add_of_le hfall
    obtain ⟨m, rfl⟩ := Nat.exists_eq_add_of_le (show i ≤ n by omega)
    have hfromFloor : (if i + m + i ≤ i + m then i + m + i else 2 * (i + m) - (i + m + i)) = m := by
      split_ifs <;> omega
    rw [cycleValue_falling, hfromFloor, hspan, Nat.add_mul, Nat.mul_comm st]
    omega

/-- A start at position `j` of the cycle, as R133 counts the falling run where the step divides the span: by the steps
that are left to the floor. -/
theorem OnCycle.of_start_dvd (h : FadeCycle c.low.toNat c.high.toNat c.step.toNat n) (hm : c.mode = .fade)
    (hspan : c.high.toNat = c.low.toNat + n * c.step.toNat) {j : Nat}
    (hstart : j ≤ n ∧ c.value.toNat = c.low.toNat + j * c.step.toNat ∧ c.phase = false ∨
      n ≤ j ∧ j < 2 * n ∧ c.value.toNat = c.low.toNat + (2 * n - j) * c.step.toNat ∧ c.phase = true) :
    j < 2 * n ∧ OnCycle c.low.toNat c.high.toNat c.step.toNat n j c := by
  have hpos := h.pos
  rcases hstart with ⟨hj, hv, hp⟩ | ⟨hj, hj', hv, hp⟩
  · rcases Nat.lt_or_eq_of_le hj with hlt | rfl
    · exact ⟨by omega, .of_rising h hm hlt hv hp⟩
    · exact ⟨by omega, .of_ceiling h hm (hv.trans hspan.symm)⟩
  · obtain ⟨i, rfl⟩ := Nat.exists_eq_add_of_le hj
    obtain ⟨m, rfl⟩ := Nat.exists_eq_add_of_le (show i ≤ n by omega)
    refine ⟨hj', .of_falling h hm (by omega) ?_ hp⟩
    rw [hv, hspan, Nat.add_mul, show 2 * (i + m) - (i + m + i) = m by omega]
    omega

/-- A start at position `j` of the cycle, as R133 counts the falling run where the step does not divide the span: by the
steps taken from the ceiling. -/
theorem OnCycle.of_start_not_dvd {q : Nat} (h : FadeCycle c.low.toNat c.high.toNat c.step.toNat (q + 1))
    (hm : c.mode = .fade) {j : Nat}
    (hstart : j ≤ q ∧ c.value.toNat = c.low.toNat + j * c.step.toNat ∧ c.phase = false ∨
      q + 1 ≤ j ∧ j < 2 * (q + 1) ∧ c.value.toNat = c.high.toNat - (j - (q + 1)) * c.step.toNat ∧ c.phase = true) :
    j < 2 * (q + 1) ∧ OnCycle c.low.toNat c.high.toNat c.step.toNat (q + 1) j c := by
  rcases hstart with ⟨hj, hv, hp⟩ | ⟨hj, hj', hv, hp⟩
  · exact ⟨by omega, .of_rising h hm (by omega) hv hp⟩
  · obtain ⟨i, rfl⟩ := Nat.exists_eq_add_of_le hj
    rw [Nat.add_sub_cancel_left] at hv
    exact ⟨hj', .of_falling h hm (by omega) hv hp⟩

end

/-! ### The rows of the local selector -/

/-- The channel file after a LOCAL row: red, then green, then blue is selected. -/
def setStrip (cfg : Cfg) (r g b : Channel) (ch : List Channel) : List Channel :=
  ((ch.set (cfg.stripR - 1) r).set (cfg.stripG - 1) g).set (cfg.stripB - 1) b

/-- The channel the local FADE selects (R142). -/
def localFade (cfg : Cfg) : Channel := fadeChannel cfg.localFadeLow cfg.localFadeHigh cfg.localFadeStep

theorem stripOff_eq (s : State) :
    stripOff s = { s with ch := setStrip s.cfg offChannel offChannel offChannel s.ch } := rfl

theorem stripSolid_eq (r g b : Byte) (s : State) : stripSolid r g b s =
    { s with ch := setStrip s.cfg (solidChannel r) (solidChannel g) (solidChannel b) s.ch } := rfl

theorem stripFlash_eq (r g b : Byte) (s : State) : stripFlash r g b s =
    { s with
      divN := s.cfg.localFlashDiv
      ch := setStrip s.cfg (flashChannel r) (flashChannel g) (flashChannel b) s.ch } := by
  simp [stripFlash, selectFlash, setChannel, setStrip]

theorem stripFade_eq (s : State) : stripFade s =
    { s with ch := setStrip s.cfg (localFade s.cfg) (localFade s.cfg) (localFade s.cfg) s.ch } := rfl

/-- A new LOCAL code is stored, and its row writes the divider and the channel file (R134). -/
theorem selectLocal_row {c : BitVec 3} {row : State → State} {s : State} {div : Byte} {ch : List Channel}
    (hrow : row { s with localCode := c } = { s with localCode := c, divN := div, ch := ch })
    (hl : cfgLegal s.cfg = true) (hc : s.cfg.control = .localTable) (he : s.localCode ≠ c) :
    selectLocal c row s = .next { s with localCode := c, divN := div, ch := ch, outs := [.quiet] } := by
  rw [selectLocal_new c row s hl hc he, hrow, emit]

/-- One channel selected on all three STRIP outputs stands on each of them (R8 (e)). -/
theorem setStrip_getElem? {cfg : Cfg} (hl : cfgLegal cfg = true) (hc : cfg.control = .localTable) {ch : List Channel}
    (hlen : ch.length = cfg.nOut) (d : Channel) {i : Nat} (hi : i ∈ [cfg.stripR, cfg.stripG, cfg.stripB]) :
    (setStrip cfg d d d ch)[i - 1]? = some d := by
  obtain ⟨-, -, -, -, -, hstrip, -⟩ := (configurationLegality cfg).1 hl
  obtain ⟨-, -, -, hindex⟩ := hstrip hc
  have hname : i = cfg.stripR ∨ i = cfg.stripG ∨ i = cfg.stripB := by simpa using hi
  obtain ⟨hlow, hhigh, -⟩ := hindex i hname
  have hlt : i - 1 < ch.length := by omega
  rcases hname with rfl | rfl | rfl <;> simp [setStrip, List.getElem_set, hlt]

/-! ### The statements -/

/-- Settles O24: both cycles by `OnCycle.ticks`; with no span a fade within its bounds has one value. -/
theorem fadeClosedForm : Obligations.FadeClosedForm := by
  rintro c _ _ _ _ j k hm rfl rfl rfl hst hle rfl
  refine ⟨fun heq hv => ?_, fun hlt hr hstart => ?_, fun hr hstart => ?_⟩
  · obtain ⟨⟨-, hfloor, hceiling⟩, hlow, hhigh, -⟩ := FadeWithin.ticks ⟨hm, hv.ge, hv.le.trans hle⟩ k
    rw [hlow] at hfloor
    rw [hhigh] at hceiling
    omega
  · have hcycle := FadeCycle.of_dvd hlt hst hr
    have hspan := Nat.div_mul_cancel (Nat.dvd_of_mod_eq_zero hr)
    have hspan' : c.high.toNat =
        c.low.toNat + (c.high.toNat - c.low.toNat) / c.step.toNat * c.step.toNat := by omega
    obtain ⟨hj, hc⟩ := OnCycle.of_start_dvd hcycle hm hspan' hstart
    rw [(hc.ticks hcycle hj k).value, cycleValue_of_dvd hspan' (Nat.mod_lt _ (Nat.zero_lt_of_lt hj))]
  · have hcycle := FadeCycle.of_not_dvd hst hr
    obtain ⟨hj, hc⟩ := OnCycle.of_start_not_dvd hcycle hm hstart
    rw [(hc.ticks hcycle hj k).value, cycleValue]
    simp only [Nat.lt_succ_iff]

/-- Settles O19: the direction and the value of the statement are stages 1 and 2 of the model, and the value fits the
u8. -/
theorem fadeStep : Obligations.FadeStep := by
  intro c ph v hm hph hv
  obtain rfl : ph = fadeDirection c := hph
  obtain rfl : v = fadeValue c := hv.trans (fadeValue_eq c).symm
  exact ⟨advanceFade c, advance_of_fade hm, advanceFade_value c, rfl, rfl⟩

/-- Settles O22, by induction on the ticks: one more tick changes the parity. -/
theorem flashSequence : Obligations.FlashSequence := by
  intro c k
  induction k with
  | zero => rfl
  | succ k ih =>
    rw [afterTicks_succ, ih, advance_of_flash rfl, advanceFlash_eq]
    rcases Nat.mod_two_eq_zero_or_one k with heven | hodd
    · simp [flashChannel, Nat.add_mod, heven]
    · simp [flashChannel, Nat.add_mod, hodd]

/-- Settles O29: the three channels hold one channel, so any number of ticks leaves one channel in them. -/
theorem localFadeKeepsTheStripEqual : Obligations.LocalFadeKeepsTheStripEqual := by
  refine ⟨by decide, fun s hl hc he hlen =>
    ⟨_, selectLocal_row (stripFade_eq _) hl hc he, rfl, fun k i hi => ?_⟩⟩
  rw [List.getElem?_map]
  exact congrArg (Option.map (afterTicks k)) (setStrip_getElem? hl hc hlen (localFade s.cfg) hi)

/-- Settles O17: what each selection writes. -/
theorem selectionsWriteEveryField : Obligations.SelectionsWriteEveryField := fun _ _ _ _ _ _ _ _ _ =>
  ⟨rfl, rfl, rfl, rfl⟩

/-- Settles O18, mode by mode. -/
theorem advanceByMode : Obligations.AdvanceByMode := fun c =>
  ⟨congrFun advance_false c, advance_of_off, advance_of_solid,
    fun hm => (advance_of_flash hm).trans (advanceFlash_eq c)⟩

/-- Settles O20: by what the flag held. -/
theorem pollConsumesAndAdvances : Obligations.PollConsumesAndAdvances := by
  refine ⟨by decide, fun s hl => (execPoll_next s hl).trans ?_⟩
  cases s.tickFlag with
  | false =>
    rw [advance_false, List.map_id]
    rfl
  | true => rfl

/-- Settles O26: a new code applies the row of R135. -/
theorem localOffTurnsTheStripOff : Obligations.LocalOffTurnsTheStripOff :=
  ⟨by decide, fun _ hl hc he => selectLocal_row (stripOff_eq _) hl hc he⟩

/-- Settles O27: a new code applies its row of R136 to R139, and SOLID holds at a tick. -/
theorem localSolidColours : Obligations.LocalSolidColours :=
  ⟨by decide, fun _ hl hc => ⟨selectLocal_row (stripSolid_eq _ _ _ _) hl hc,
    selectLocal_row (stripSolid_eq _ _ _ _) hl hc, selectLocal_row (stripSolid_eq _ _ _ _) hl hc,
    selectLocal_row (stripSolid_eq _ _ _ _) hl hc, fun _ => advance_of_solid rfl⟩⟩

/-- Settles O28: a new code applies its row of R140 or R141. -/
theorem localFlashColours : Obligations.LocalFlashColours :=
  ⟨by decide, fun _ hl hc => ⟨selectLocal_row (stripFlash_eq _ _ _ _) hl hc,
    selectLocal_row (stripFlash_eq _ _ _ _) hl hc⟩⟩

end Sys2Proof.Machine
end

section
/-! SUPPORT. The statements of 42_parser.md. What an RX leaves is written out once for each parser state and each kind
of byte (`receive_startByte` to `receive_notEndByte`). A well-formed frame is a head, a payload that passes the tests of
RX in DATA, and END_BYTE (`wellFormedFrame_iff`). Those bytes lead from WAIT to VALIDATE (`receiveAll_front`); and the
other way round, whatever bytes came from WAIT on, the parser's registers hold the front of a frame that began in WAIT
(`Receiving`, `exists_frontOf`), so a dispatch ends a well-formed frame. -/

namespace Sys2Proof.Machine

/-! ### What an RX leaves, by the parser's state -/

/-- What a raised parser error leaves, field by field (R222, R223). -/
theorem afterError_eq (e : StepError) (s : State) : afterError e s =
    { s with
      rxState := .wait, rxSize := 0, rxCmd := 0, rxCount := 0, rxBuf := []
      errCount := if counted s.cfg e then s.errCount + 1 else s.errCount
      outs := [{ disp := [], err := e, consumed := false }] } :=
  Host.Outcome.next.inj ((raiseError_eq e s).symm.trans (raiseError_next e s))

/-- With nothing in the parser there is nothing to clear. -/
theorem afterError_of_clear (e : StepError) {s : State} (hs : s.rxState = .wait) (h : parserClear s) : afterError e s =
    { s with
      errCount := if counted s.cfg e then s.errCount + 1 else s.errCount
      outs := [{ disp := [], err := e, consumed := false }] } := by
  obtain ⟨hsize, hcmd, hcount, hbuf⟩ := h
  simp only [afterError_eq, hs, hsize, hcmd, hcount, hbuf]

/-- The next count, where it is a u8 (R166). -/
theorem countAfter_eq_succ {k : Byte} (h : k.toNat < 255) : countAfter k.toNat = k + 1 := by
  apply BitVec.eq_of_toNat_eq
  rw [countAfter_toNat (by omega)]
  bv_omega

section
variable {b : Byte} {s : State} (hl : cfgLegal s.cfg = true) (hc : s.cfg.control = .serial)
include hl hc

/-- START_BYTE opens a frame (R161). -/
theorem receive_startByte (hs : s.rxState = .wait) : receive Config.startByte s = .next
    { s with rxState := if s.cfg.protocol = .twoField then .commandOrIndex else .size, outs := [.quiet] } := by
  cases hp : s.cfg.protocol <;> simp [receive_serial _ s hl hc, rxByState, hs, rxWait, hp, emit]

/-- Any other byte in WAIT is discarded with an error (R161). -/
theorem receive_notStartByte (hs : s.rxState = .wait) (hb : b ≠ Config.startByte) :
    receive b s = .next (afterError .frameSyntaxStart s) := by
  simp [receive_serial _ s hl hc, rxByState, hs, rxWait, hb, raiseError_eq]

/-- An INDEX that names an output (R162). -/
theorem receive_index (hp : s.cfg.protocol = .twoField) (hs : s.rxState = .commandOrIndex)
    (hb : isIndex s.cfg b = true) : receive b s = .next
    { s with rxCmd := b, rxSize := 1, rxCount := 0, rxState := .data, outs := [.quiet] } := by
  simp [receive_serial _ s hl hc, rxByState, hs, hp, rxIndex, hb, emit]

/-- An INDEX that names none (R162). -/
theorem receive_badIndex (hp : s.cfg.protocol = .twoField) (hs : s.rxState = .commandOrIndex)
    (hb : isIndex s.cfg b = false) : receive b s = .next (afterError (.fieldRange b) s) := by
  simp [receive_serial _ s hl hc, rxByState, hs, hp, rxIndex, hb, raiseError_eq]

/-- A SIZE below RX_MAX (R164). -/
theorem receive_size (hs : s.rxState = .size) (hb : b.toNat < s.cfg.rxMax) : receive b s = .next
    { s with rxSize := b, rxState := .commandOrIndex, outs := [.quiet] } := by
  simp [receive_serial _ s hl hc, rxByState, hs, rxSizeByte, hb, emit]

/-- A SIZE that the buffer does not hold (R164). -/
theorem receive_badSize (hs : s.rxState = .size) (hb : s.cfg.rxMax ≤ b.toNat) :
    receive b s = .next (afterError (.bufferOverflow b) s) := by
  simp [receive_serial _ s hl hc, rxByState, hs, rxSizeByte, hb.not_gt, raiseError_eq]

/-- A COMMAND with the declared payload size (R165). -/
theorem receive_command (hp : s.cfg.protocol = .multiField) (hs : s.rxState = .commandOrIndex)
    (hb : commandAccepted s b = true) : receive b s = .next
    { s with rxCmd := b, rxState := if s.rxSize = 0 then .validate else .data, outs := [.quiet] } := by
  simp [receive_serial _ s hl hc, rxByState, hs, hp, rxCommand, hb, emit]

/-- Any other COMMAND (R165). -/
theorem receive_badCommand (hp : s.cfg.protocol = .multiField) (hs : s.rxState = .commandOrIndex)
    (hb : commandAccepted s b = false) : receive b s = .next (afterError (.fieldRange b) s) := by
  simp [receive_serial _ s hl hc, rxByState, hs, hp, rxCommand, hb, raiseError_eq]

/-- An accepted payload byte, at a count inside the buffer whose successor is a u8 (R166). -/
theorem receive_payloadByte (hs : s.rxState = .data) (hr : isReserved s.cfg b = false)
    (hv : fieldValid s.cfg s.rxCmd s.rxBuf s.rxCount.toNat b = true) (hk : s.rxCount.toNat < s.cfg.rxMax)
    (hcount : s.rxCount.toNat < 255) : receive b s = .next
    { s with
      rxBuf := memWrite s.rxBuf s.rxCount.toNat b
      rxCount := s.rxCount + 1
      rxState := if s.rxCount + 1 = s.rxSize then .validate else .data
      outs := [.quiet] } := by
  have hlast : s.rxCount.toNat + 1 = s.rxSize.toNat ↔ s.rxCount + 1 = s.rxSize := by bv_omega
  simp [receive_serial _ s hl hc, rxByState, hs, rxData, hr, hv, rxStore, bufWrite_of_lt hk,
    countAfter_eq_succ hcount, hlast, emit]

/-- A reserved payload byte, or one the field validator rejects (R166, R169). -/
theorem receive_badPayloadByte (hs : s.rxState = .data)
    (h : isReserved s.cfg b = true ∨ fieldValid s.cfg s.rxCmd s.rxBuf s.rxCount.toNat b = false) :
    receive b s = .next (afterError (.fieldRange b) s) := by
  rcases h with h | h <;> simp [receive_serial _ s hl hc, rxByState, hs, rxData, h, raiseError_eq]

/-- END_BYTE dispatches, and then returns to WAIT (R167). -/
theorem receive_endByte (hs : s.rxState = .validate) : receive Config.endByte s = .next
    (emit (dispatch s .quiet).2 (toWait (dispatch s .quiet).1)) := by
  simp [receive_serial _ s hl hc, rxByState, hs, rxValidate]

/-- A wrong terminator (R167). -/
theorem receive_notEndByte (hs : s.rxState = .validate) (hb : b ≠ Config.endByte) :
    receive b s = .next (afterError (.frameSyntax b) s) := by
  simp [receive_serial _ s hl hc, rxByState, hs, rxValidate, hb, raiseError_eq]

end

/-- Only an END_BYTE taken in VALIDATE leaves a dispatch record (R225). -/
theorem RxEffect.of_dispatched {b : Byte} {s t : State} (h : RxEffect b s t) (hd : Machine.dispatched t) :
    s.rxState = .validate ∧ b = Config.endByte ∧ t.rxState = .wait := by
  obtain ⟨o, ho, hne⟩ := hd
  cases h with
  | refused => cases ho
  | error e _ => exact absurd (congrArg StepOut.disp (List.mem_singleton.1 ho)) hne
  | moved _ hm =>
    rw [hm] at ho
    exact absurd (congrArg StepOut.disp (List.mem_singleton.1 ho)) hne
  | dispatched hs hb => exact ⟨hs, hb, rfl⟩

/-! ### The payload tests and the well-formed instructions -/

/-- A byte selects a command exactly when it is its code (R8 (d), R204). -/
theorem commandOf_eq_some_iff {cfg : Cfg} (hl : cfgLegal cfg = true) (c : Byte) (k : Command) :
    commandOf cfg c = some k ↔ c = codeOf cfg k :=
  ⟨codeOf_of_commandOf, fun h => h ▸ commandOf_codeOf_of_legal hl k⟩

/-- The four commands, one by one (R76). -/
theorem exists_command {p : Command → Prop} :
    (∃ k, p k) ↔ p .init ∨ p .fade ∨ p .setVal ∨ p .setValAll := by
  refine ⟨fun ⟨k, h⟩ => ?_, ?_⟩
  · cases k <;> simp [h]
  · rintro (h | h | h | h) <;> exact ⟨_, h⟩

/-- A payload stored from index 0 on reads back. -/
theorem bufRead_fill {cfg : Cfg} (data : List Byte) (hR : data.length ≤ cfg.rxMax) {j : Nat} (hj : j < data.length) :
    bufRead cfg (fill 0 data []) j = data[j] := by
  rw [bufRead_of_lt (by omega), ← memRead_fill cfg.rxMax 0 data [] (Memory.wf_nil _) (by omega) j hj, Nat.zero_add]

/-- One more byte stored after a payload. -/
theorem fill_concat (k : Nat) (data : List Byte) (b : Byte) (m : Memory) :
    fill k (data ++ [b]) m = memWrite (fill k data m) (k + data.length) b := by
  induction data generalizing k m with
  | nil => rfl
  | cons d data ih => rw [List.cons_append, fill, ih, fill, List.length_cons, Nat.add_assoc, Nat.add_comm 1]

/-- A payload with one more byte passes when it passes and the byte passes after it. -/
theorem payloadPasses_concat {cfg : Cfg} {cmd : Byte} (k : Nat) (m : Memory) (data : List Byte) (b : Byte) :
    payloadPasses cfg cmd k m (data ++ [b]) ↔ payloadPasses cfg cmd k m data ∧ isReserved cfg b = false ∧
      fieldValid cfg cmd (fill k data m) (k + data.length) b = true := by
  induction data generalizing k m with
  | nil => simp [payloadPasses, fill]
  | cons d data ih =>
    rw [List.cons_append, payloadPasses, ih, payloadPasses, fill, List.length_cons, Nat.add_assoc, Nat.add_comm 1]
    simp only [and_assoc]

/-- SET_VAL_ALL's fields pass when every value lies in its output's domain (R168). -/
theorem payloadPasses_setValAll {cfg : Cfg} {cmd : Byte} (hp : cfg.protocol = .multiField)
    (hk : commandOf cfg cmd = some .setValAll) (k : Nat) (m : Memory) (vs : List Byte)
    (hlen : k + vs.length ≤ cfg.nOut) :
    payloadPasses cfg cmd k m vs ↔ valuesInDomain cfg k vs = true ∧ noneReserved cfg vs = true := by
  induction vs generalizing k m with
  | nil => simp [payloadPasses, valuesInDomain, noneReserved]
  | cons v vs ih =>
    rw [List.length_cons] at hlen
    have hlt : k < cfg.nOut := by omega
    simp only [payloadPasses, ih (k + 1) (memWrite m k v) (by omega), fieldValid, hp, hk, hlt, valuesInDomain,
      noneReserved, List.all_cons, if_true, Bool.and_eq_true, Bool.not_eq_true']
    tauto

/-- FADE's fields pass when its INDEX names an output, both bounds lie in that output's domain, and they are in order
(R168). -/
theorem payloadPasses_fade {cfg : Cfg} {cmd : Byte} (hp : cfg.protocol = .multiField)
    (hk : commandOf cfg cmd = some .fade) (hR : 4 < cfg.rxMax) (i lo hi st : Byte) :
    payloadPasses cfg cmd 0 [] [i, lo, hi, st] ↔
      (isIndex cfg i = true ∧ dom cfg i lo = true ∧ dom cfg i hi = true ∧ lo.toNat ≤ hi.toNat) ∧
        noneReserved cfg [i, lo, hi, st] = true := by
  have hindex : bufRead cfg (memWrite [] 0 i) 0 = i := bufRead_fill [i] (by simp; omega) (j := 0) (by simp)
  have hindex' : bufRead cfg (memWrite (memWrite [] 0 i) 1 lo) 0 = i :=
    bufRead_fill [i, lo] (by simp; omega) (j := 0) (by simp)
  have hlow : bufRead cfg (memWrite (memWrite [] 0 i) 1 lo) 1 = lo :=
    bufRead_fill [i, lo] (by simp; omega) (j := 1) (by simp)
  simp only [payloadPasses, fieldValid, hp, hk, fadeFieldValid, hindex, hindex', hlow, noneReserved, List.all_cons,
    List.all_nil, Bool.and_eq_true, Bool.not_eq_true', decide_eq_true_eq, zero_add, Nat.reduceAdd, and_true]
  tauto

/-- SET_VAL's fields pass when its INDEX names an output and its VALUE lies in that output's domain (R168). -/
theorem payloadPasses_setVal {cfg : Cfg} {cmd : Byte} (hp : cfg.protocol = .multiField)
    (hk : commandOf cfg cmd = some .setVal) (hR : 2 < cfg.rxMax) (i v : Byte) :
    payloadPasses cfg cmd 0 [] [i, v] ↔
      (isIndex cfg i = true ∧ dom cfg i v = true) ∧ noneReserved cfg [i, v] = true := by
  have hindex : bufRead cfg (memWrite [] 0 i) 0 = i := bufRead_fill [i] (by simp; omega) (j := 0) (by simp)
  simp only [payloadPasses, fieldValid, hp, hk, setValFieldValid, hindex, noneReserved, List.all_cons, List.all_nil,
    Bool.and_eq_true, Bool.not_eq_true', zero_add, and_true]
  tauto

/-- The two-field set is well-formed when its INDEX names an output and its VALUE passes as a payload (R73). -/
theorem frame2_wellFormed_iff {cfg : Cfg} (hp : cfg.protocol = .twoField) (i v : Byte) :
    (Instr.frame2 i v).wellFormed cfg = true ↔ isIndex cfg i = true ∧ payloadPasses cfg i 0 [] [v] := by
  simp only [Instr.wellFormed, hp, noneReserved, payloadPasses, fieldValid, List.all_cons, List.all_nil, decide_true,
    Bool.true_and, Bool.and_true, Bool.and_eq_true, Bool.not_eq_true', if_true, and_true]
  tauto

/-- The COMMAND bytes and payloads that decode, and what they decode to (R76, R205). -/
theorem decodeCommand_ok_iff {cfg : Cfg} {c : Byte} {data : List Byte} {instr : Instr} :
    decodeCommand cfg c data = .ok instr ↔
      commandOf cfg c = some .init ∧ data = [] ∧ instr = .init ∨
      commandOf cfg c = some .fade ∧ (∃ i lo hi st, data = [i, lo, hi, st] ∧ instr = .fade i lo hi st) ∨
      commandOf cfg c = some .setVal ∧ (∃ i v, data = [i, v] ∧ instr = .setval i v) ∨
      commandOf cfg c = some .setValAll ∧ data.length = cfg.nOut ∧ instr = .setall data := by
  constructor
  · intro h
    cases hk : commandOf cfg c with
    | none => simp [decodeCommand, hk] at h
    | some k =>
      simp only [decodeCommand, hk] at h
      cases k with
      | init | fade | setVal =>
        simp only at h
        split at h <;> cases h
        simp
      | setValAll =>
        split_ifs at h with hlen
        cases h
        simp [hlen]
  · rintro (⟨hk, rfl, rfl⟩ | ⟨hk, i, lo, hi, st, rfl, rfl⟩ | ⟨hk, i, v, rfl, rfl⟩ | ⟨hk, hlen, rfl⟩)
    · simp [decodeCommand, hk]
    · simp [decodeCommand, hk]
    · simp [decodeCommand, hk]
    · simp [decodeCommand, hk, hlen]

/-- What decodes from a COMMAND byte has that command's payload size (R205). -/
theorem esize_of_decodeCommand {cfg : Cfg} {c : Byte} {data : List Byte} {i : Instr}
    (h : decodeCommand cfg c data = .ok i) : ∃ k, commandOf cfg c = some k ∧ data.length = esize cfg k := by
  rcases decodeCommand_ok_iff.1 h with
    ⟨hk, rfl, -⟩ | ⟨hk, _, _, _, _, rfl, -⟩ | ⟨hk, _, _, rfl, -⟩ | ⟨hk, hlen, -⟩
  · exact ⟨_, hk, rfl⟩
  · exact ⟨_, hk, rfl⟩
  · exact ⟨_, hk, rfl⟩
  · exact ⟨_, hk, hlen⟩

/-- A COMMAND byte and a payload of its command's size decode (R205). -/
theorem exists_decodeCommand {cfg : Cfg} {c : Byte} {data : List Byte} {k : Command} (hk : commandOf cfg c = some k)
    (hlen : data.length = esize cfg k) : ∃ i, decodeCommand cfg c data = .ok i := by
  simp only [decodeCommand_ok_iff]
  cases k with
  | init => exact ⟨_, .inl ⟨hk, List.length_eq_zero_iff.1 hlen, rfl⟩⟩
  | fade =>
    obtain ⟨i, lo, hi, st, rfl⟩ := List.length_eq_four.1 hlen
    exact ⟨_, .inr (.inl ⟨hk, i, lo, hi, st, rfl, rfl⟩)⟩
  | setVal =>
    obtain ⟨i, v, rfl⟩ := List.length_eq_two.1 hlen
    exact ⟨_, .inr (.inr (.inl ⟨hk, i, v, rfl, rfl⟩))⟩
  | setValAll => exact ⟨_, .inr (.inr (.inr ⟨hk, hlen, rfl⟩))⟩

/-- What a COMMAND byte and a payload decode to is well-formed when the payload's length is below RX_MAX and its bytes
pass (R74, R168, R169). -/
theorem decodeCommand_wellFormed_iff {cfg : Cfg} (hp : cfg.protocol = .multiField) {c : Byte} {data : List Byte}
    {i : Instr} (h : decodeCommand cfg c data = .ok i) :
    i.wellFormed cfg = true ↔ data.length < cfg.rxMax ∧ payloadPasses cfg c 0 [] data := by
  rcases decodeCommand_ok_iff.1 h with
    ⟨hk, rfl, rfl⟩ | ⟨hk, i, lo, hi, st, rfl, rfl⟩ | ⟨hk, i, v, rfl, rfl⟩ | ⟨hk, hlen, rfl⟩
  · simp [Instr.wellFormed, hp, payloadPasses]
  · simp only [Instr.wellFormed, hp, List.length_cons, List.length_nil, decide_true, Bool.true_and, Bool.and_eq_true,
      decide_eq_true_eq, and_assoc]
    refine and_congr_right fun hR => ?_
    rw [payloadPasses_fade hp hk hR]
    simp only [and_assoc]
  · simp only [Instr.wellFormed, hp, List.length_cons, List.length_nil, decide_true, Bool.true_and, Bool.and_eq_true,
      decide_eq_true_eq, and_assoc]
    refine and_congr_right fun hR => ?_
    rw [payloadPasses_setVal hp hk hR]
    simp only [and_assoc]
  · rw [payloadPasses_setValAll hp hk 0 [] data (by omega)]
    simp [Instr.wellFormed, hp, hlen, and_assoc]

/-! ### A well-formed frame: a head, a payload that passes, and END_BYTE -/

/-- The bytes before the payload, for a declared size and the byte that `rx_cmd` takes: START and INDEX under TWO_FIELD
(R162, R73), START, SIZE and COMMAND under MULTI_FIELD (R164, R165, R74). -/
inductive FrameHead (cfg : Cfg) (size cmd : Byte) : List Byte → Prop where
  | twoField (hp : cfg.protocol = .twoField) (hcmd : isIndex cfg cmd = true) (hsize : size = 1) :
      FrameHead cfg size cmd [Config.startByte, cmd]
  | multiField (k : Command) (hp : cfg.protocol = .multiField) (hcmd : commandOf cfg cmd = some k)
      (hsize : size.toNat = esize cfg k) (hR : size.toNat < cfg.rxMax) :
      FrameHead cfg size cmd [Config.startByte, size, cmd]

/-- The declared payload fits the buffer, under either protocol. -/
theorem FrameHead.size_le {cfg : Cfg} {size cmd : Byte} {head : List Byte} (h : FrameHead cfg size cmd head)
    (hl : cfgLegal cfg = true) : size.toNat ≤ cfg.rxMax := by
  obtain ⟨-, -, -, ⟨hR, -⟩, -⟩ := (configurationLegality cfg).1 hl
  cases h with
  | twoField _ _ hsize => rwa [hsize]
  | multiField k _ _ _ hlt => exact hlt.le

/-- The bytes before END_BYTE of a frame that R73 and R74 allow, with every field valid. -/
structure FrameFront (cfg : Cfg) (size cmd : Byte) (head data : List Byte) : Prop where
  head : FrameHead cfg size cmd head
  length : data.length = size.toNat
  passes : payloadPasses cfg cmd 0 [] data

/-- The frames of the well-formed instructions are the fronts with END_BYTE after them (R73, R74, R163). -/
theorem wellFormedFrame_iff {cfg : Cfg} (hl : cfgLegal cfg = true) (bytes : List Byte) :
    (∃ i, i.wellFormed cfg = true ∧ encode cfg i = .frame bytes) ↔
      ∃ size cmd head data, FrameFront cfg size cmd head data ∧ bytes = head ++ data ++ [Config.endByte] := by
  constructor
  · rintro ⟨i, hw, henc⟩
    have hdec := decodeEncodeRoundTrip cfg i hl hw
    rw [henc, decode, decodeFrame] at hdec
    split at hdec
    case h_1 hp =>
      obtain ⟨j, v, -, rfl, rfl⟩ := decodeTwoField_ok_iff.1 hdec
      obtain ⟨hindex, hpass⟩ := (frame2_wellFormed_iff hp j v).1 hw
      exact ⟨1, j, _, [v], ⟨.twoField hp hindex rfl, rfl, hpass⟩, rfl⟩
    case h_2 hp =>
      obtain ⟨c, data, hlt, rfl, hcommand⟩ := decodeMultiField_ok_iff.1 hdec
      obtain ⟨hR, hpass⟩ := (decodeCommand_wellFormed_iff hp hcommand).1 hw
      obtain ⟨k, hk, hlen⟩ := esize_of_decodeCommand hcommand
      have hsize : (BitVec.ofNat 8 data.length).toNat = data.length := Nat.mod_eq_of_lt hlt
      have hhead := FrameHead.multiField k hp hk (hsize.trans hlen) (hsize.trans_lt hR)
      exact ⟨_, c, _, data, ⟨hhead, hsize.symm, hpass⟩, rfl⟩
  · rintro ⟨size, cmd, head, data, ⟨hhead, hlen, hpass⟩, rfl⟩
    cases hhead with
    | twoField hp hcmd hsize =>
      subst hsize
      obtain ⟨v, rfl⟩ := List.length_eq_one_iff.1 hlen
      exact ⟨.frame2 cmd v, (frame2_wellFormed_iff hp cmd v).2 ⟨hcmd, hpass⟩, rfl⟩
    | multiField k hp hcmd hsize hR =>
      obtain ⟨i, hi⟩ := exists_decodeCommand hcmd (hlen.trans hsize)
      refine ⟨i, (decodeCommand_wellFormed_iff hp hi).2 ⟨hlen.trans_lt hR, hpass⟩, ?_⟩
      rw [encode_of_decodeCommand hi, multiFieldBytes, hlen, BitVec.ofNat_toNat, BitVec.setWidth_eq]
      rfl

/-! ### From WAIT to VALIDATE -/

/-- The head of a frame, received in WAIT (R161, R162, R164, R165). -/
theorem receiveAll_head {s : State} {size cmd : Byte} {head : List Byte} (hl : cfgLegal s.cfg = true)
    (hc : s.cfg.control = .serial) (hs : s.rxState = .wait) (hclear : parserClear s)
    (h : FrameHead s.cfg size cmd head) : receiveAll head s = .next
      { s with
        rxState := if size = 0 then .validate else .data, rxSize := size, rxCmd := cmd
        outs := s.outs ++ List.replicate head.length .quiet } := by
  obtain ⟨-, -, hcount, -⟩ := hclear
  cases h with
  | twoField hp hindex hsize =>
    have hstart : receive Config.startByte s = .next { s with rxState := .commandOrIndex, outs := [.quiet] } := by
      simpa [hp] using receive_startByte hl hc hs
    rw [receiveAll_cons _ _ _ _ hstart]
    refine (receiveAll_cons _ _ { s with rxState := .commandOrIndex, outs := s.outs ++ [.quiet] } _
      (receive_index hl hc hp rfl hindex)).trans ?_
    simp [receiveAll, hcount, hsize]
  | multiField k hp hk he hR =>
    have hstart : receive Config.startByte s = .next { s with rxState := .size, outs := [.quiet] } := by
      simpa [hp] using receive_startByte hl hc hs
    rw [receiveAll_cons _ _ _ _ hstart]
    refine (receiveAll_cons _ _ { s with rxState := .size, outs := s.outs ++ [.quiet] } _
      (receive_size hl hc rfl hR)).trans ?_
    refine (receiveAll_cons _ _
      { s with rxState := .commandOrIndex, rxSize := size, outs := s.outs ++ [.quiet] ++ [.quiet] } _
      (receive_command hl hc hp rfl ((commandAccepted_iff _ _).2 ⟨k, hk, he⟩))).trans ?_
    simp [receiveAll]

/-- The front of a well-formed frame, received in WAIT, leads to VALIDATE with the payload in the buffer (R166). -/
theorem receiveAll_front {s : State} {size cmd : Byte} {head data : List Byte} (hl : cfgLegal s.cfg = true)
    (hc : s.cfg.control = .serial) (hs : s.rxState = .wait) (hclear : parserClear s)
    (h : FrameFront s.cfg size cmd head data) : receiveAll (head ++ data) s = .next
      { s with
        rxState := .validate, rxSize := size, rxCmd := cmd, rxCount := size, rxBuf := fill 0 data []
        outs := s.outs ++ List.replicate (head ++ data).length .quiet } := by
  obtain ⟨hhead, hlen, hpass⟩ := h
  rw [receiveAll_append _ _ _ _ (receiveAll_head hl hc hs hclear hhead)]
  obtain ⟨-, -, hcount, hbuf⟩ := hclear
  by_cases hdata : data = []
  · subst hdata
    obtain rfl : size = 0 := BitVec.eq_of_toNat_eq hlen.symm
    simp [receiveAll, fill, hcount, hbuf]
  · have hsize : size ≠ 0 := by
      rintro rfl
      exact hdata (List.length_eq_zero_iff.1 hlen)
    refine Eq.trans (receiveAll_payload data _ 0 hl hc (if_neg hsize) (congrArg BitVec.toNat hcount) ?_ hdata ?_ ?_) ?_
    · simpa using hlen.symm
    · simpa [hlen] using hhead.size_le hl
    · simpa [hbuf] using hpass
    · simp [hbuf]

/-! ### What the parser holds -/

/-- The parser's registers hold `front`: nothing in WAIT, and in every other state the bytes of a frame from its
START_BYTE on, each of them accepted (R35 (a) to (c), R161 to R166). -/
inductive Receiving (s : State) : List Byte → Prop where
  | waiting (hs : s.rxState = .wait) (hclear : parserClear s) : Receiving s []
  | opened (hs : s.rxState = if s.cfg.protocol = .twoField then .commandOrIndex else .size) (hclear : parserClear s) :
      Receiving s [Config.startByte]
  | sized (hp : s.cfg.protocol = .multiField) (hs : s.rxState = .commandOrIndex) (hR : s.rxSize.toNat < s.cfg.rxMax)
      (hcount : s.rxCount = 0) (hbuf : s.rxBuf = []) : Receiving s [Config.startByte, s.rxSize]
  | payload (head data : List Byte) (hs : s.rxState = if s.rxCount = s.rxSize then .validate else .data)
      (hhead : FrameHead s.cfg s.rxSize s.rxCmd head) (hlen : data.length = s.rxCount.toNat)
      (hle : s.rxCount.toNat ≤ s.rxSize.toNat) (hbuf : s.rxBuf = fill 0 data [])
      (hpass : payloadPasses s.cfg s.rxCmd 0 [] data) : Receiving s (head ++ data)

/-- What the parser holds has nothing to do with the output records. -/
theorem Receiving.setOuts {s : State} {front : List Byte} (h : Receiving s front) (o : List StepOut) :
    Receiving { s with outs := o } front := by
  cases h with
  | waiting hs hclear => exact .waiting hs hclear
  | opened hs hclear => exact .opened hs hclear
  | sized hp hs hR hcount hbuf => exact .sized (s := { s with outs := o }) hp hs hR hcount hbuf
  | payload head data hs hhead hlen hle hbuf hpass => exact .payload head data hs hhead hlen hle hbuf hpass

/-- In VALIDATE the parser holds the whole front of a well-formed frame. -/
theorem Receiving.front {s : State} {front : List Byte} (h : Receiving s front) (hv : s.rxState = .validate) :
    ∃ size cmd head data, FrameFront s.cfg size cmd head data ∧ front = head ++ data := by
  cases h with
  | waiting hs _ => exact absurd (hs.symm.trans hv) (by decide)
  | opened hs _ => rw [hv] at hs; split at hs <;> cases hs
  | sized _ hs _ _ _ => exact absurd (hs.symm.trans hv) (by decide)
  | payload head data hs hhead hlen hle hbuf hpass =>
    rw [hv] at hs
    split at hs
    case isTrue hfull => exact ⟨_, _, head, data, ⟨hhead, hfull ▸ hlen, hpass⟩, rfl⟩
    case isFalse => cases hs

/-- An RX adds its byte to what the parser holds, or it leaves the parser in WAIT with nothing in it (R163). -/
def Extends (b : Byte) (s : State) (front : List Byte) : Prop :=
  ∃ t, receive b s = .next t ∧ t.cfg = s.cfg ∧ (∃ o, t.outs = [o]) ∧
    (Receiving t (front ++ [b]) ∨ t.rxState = .wait ∧ parserClear t)

/-- A raised error leaves nothing in the parser (R222). -/
theorem extends_of_error {b : Byte} {s : State} {front : List Byte} {e : StepError}
    (h : receive b s = .next (afterError e s)) : Extends b s front := by
  rw [afterError_eq] at h
  exact ⟨_, h, rfl, ⟨_, rfl⟩, .inr ⟨rfl, rfl, rfl, rfl, rfl⟩⟩

section
variable {b : Byte} {s : State} (hl : cfgLegal s.cfg = true) (hc : s.cfg.control = .serial)
include hl hc

/-- In WAIT a START_BYTE opens a frame (R161). -/
theorem extends_waiting (hs : s.rxState = .wait) (hclear : parserClear s) : Extends b s [] := by
  by_cases hb : b = Config.startByte
  · subst hb
    exact ⟨_, receive_startByte hl hc hs, rfl, ⟨_, rfl⟩, .inl (.opened rfl hclear)⟩
  · exact extends_of_error (receive_notStartByte hl hc hs hb)

/-- After START_BYTE comes an INDEX (R162) or a SIZE (R164). -/
theorem extends_opened (hs : s.rxState = if s.cfg.protocol = .twoField then .commandOrIndex else .size)
    (hclear : parserClear s) : Extends b s [Config.startByte] := by
  obtain ⟨hsize, hcmd, hcount, hbuf⟩ := hclear
  cases hp : s.cfg.protocol with
  | twoField =>
    have hs : s.rxState = .commandOrIndex := by simpa [hp] using hs
    cases hb : isIndex s.cfg b with
    | true =>
      refine ⟨_, receive_index hl hc hp hs hb, rfl, ⟨_, rfl⟩, .inl ?_⟩
      exact .payload [Config.startByte, b] [] rfl (.twoField hp hb rfl) rfl (Nat.zero_le _) hbuf trivial
    | false => exact extends_of_error (receive_badIndex hl hc hp hs hb)
  | multiField =>
    have hs : s.rxState = .size := by simpa [hp] using hs
    by_cases hb : b.toNat < s.cfg.rxMax
    · refine ⟨_, receive_size hl hc hs hb, rfl, ⟨_, rfl⟩, .inl ?_⟩
      exact .sized (s := { s with rxSize := b, rxState := .commandOrIndex, outs := [.quiet] }) hp rfl hb hcount hbuf
    · exact extends_of_error (receive_badSize hl hc hs (not_lt.1 hb))

/-- After SIZE comes a COMMAND with that payload size (R165). -/
theorem extends_sized (hp : s.cfg.protocol = .multiField) (hs : s.rxState = .commandOrIndex)
    (hR : s.rxSize.toNat < s.cfg.rxMax) (hcount : s.rxCount = 0) (hbuf : s.rxBuf = []) :
    Extends b s [Config.startByte, s.rxSize] := by
  cases hb : commandAccepted s b with
  | true =>
    obtain ⟨k, hk, he⟩ := (commandAccepted_iff s b).1 hb
    refine ⟨_, receive_command hl hc hp hs hb, rfl, ⟨_, rfl⟩, .inl ?_⟩
    refine .payload [Config.startByte, s.rxSize, b] [] ?_ (.multiField k hp hk he hR) ?_ ?_ hbuf trivial
    · simp only [hcount, eq_comm]
    · simp [hcount]
    · simp [hcount]
  | false => exact extends_of_error (receive_badCommand hl hc hp hs hb)

/-- In VALIDATE the frame ends, dispatched or not (R167). -/
theorem extends_validate (hs : s.rxState = .validate) (front : List Byte) : Extends b s front := by
  by_cases hb : b = Config.endByte
  · subst hb
    exact ⟨_, receive_endByte hl hc hs, by simp, ⟨_, rfl⟩, .inr ⟨rfl, rfl, rfl, rfl, rfl⟩⟩
  · exact extends_of_error (receive_notEndByte hl hc hs hb)

/-- In DATA an accepted byte is the next one of the payload (R166). -/
theorem extends_data (hs : s.rxState = .data) {head data : List Byte} (hhead : FrameHead s.cfg s.rxSize s.rxCmd head)
    (hlen : data.length = s.rxCount.toNat) (hlt : s.rxCount.toNat < s.rxSize.toNat) (hbuf : s.rxBuf = fill 0 data [])
    (hpass : payloadPasses s.cfg s.rxCmd 0 [] data) : Extends b s (head ++ data) := by
  by_cases hb : isReserved s.cfg b = true ∨ fieldValid s.cfg s.rxCmd s.rxBuf s.rxCount.toNat b = false
  · exact extends_of_error (receive_badPayloadByte hl hc hs hb)
  · rw [not_or, Bool.not_eq_true, Bool.not_eq_false] at hb
    obtain ⟨hr, hv⟩ := hb
    have hk : s.rxCount.toNat < s.cfg.rxMax := hlt.trans_le (hhead.size_le hl)
    have hsucc : (s.rxCount + 1).toNat = s.rxCount.toNat + 1 := by bv_omega
    refine ⟨_, receive_payloadByte hl hc hs hr hv hk (by omega), rfl, ⟨_, rfl⟩, .inl ?_⟩
    rw [List.append_assoc]
    refine .payload head (data ++ [b]) rfl hhead ?_ (hsucc.trans_le hlt) ?_ ?_
    · rw [List.length_append, hlen]
      exact hsucc.symm
    · rw [fill_concat, ← hbuf, Nat.zero_add, hlen]
    · rw [payloadPasses_concat, ← hbuf, Nat.zero_add, hlen]
      exact ⟨hpass, hr, hv⟩

/-- Every RX extends what the parser holds, or leaves nothing in the parser. -/
theorem Receiving.receive_extends {front : List Byte} (h : Receiving s front) (b : Byte) : Extends b s front := by
  cases h with
  | waiting hs hclear => exact extends_waiting hl hc hs hclear
  | opened hs hclear => exact extends_opened hl hc hs hclear
  | sized hp hs hR hcount hbuf => exact extends_sized hl hc hp hs hR hcount hbuf
  | payload head data hs hhead hlen hle hbuf hpass =>
    split at hs
    case isTrue => exact extends_validate hl hc hs _
    case isFalse hmore => exact extends_data hl hc hs hhead hlen (by bv_omega) hbuf hpass

end

/-! ### From WAIT on -/

/-- One more RX after those of a frame line. -/
theorem receiveFrame_concat {bytes : List Byte} {b : Byte} {s u t : State} (hu : receiveFrame bytes s = .next u)
    (ht : receive b u = .next t) :
    receiveFrame (bytes ++ [b]) s = .next { t with outs := u.outs ++ t.outs } :=
  (receiveAll_append bytes [b] _ u hu).trans (receiveAll_cons b [] u t ht)

/-- After the RX events of `bytes` from `s`, in state `u`, the parser holds the last of them, `front`, which came from a
point where it was in WAIT. -/
structure FrontOf (s : State) (bytes front : List Byte) (u : State) : Prop where
  reached : receiveFrame bytes s = .next u
  cfg : u.cfg = s.cfg
  holds : Receiving u front
  began : ∃ before w, bytes = before ++ front ∧ receiveFrame before s = .next w ∧ w.rxState = .wait

/-- In WAIT a new front begins. -/
theorem FrontOf.of_wait {s u : State} {bytes : List Byte} (hreached : receiveFrame bytes s = .next u)
    (hcfg : u.cfg = s.cfg) (hs : u.rxState = .wait) (hclear : parserClear u) : FrontOf s bytes [] u :=
  ⟨hreached, hcfg, .waiting hs hclear, bytes, u, (List.append_nil bytes).symm, hreached, hs⟩

/-- One more byte extends the front, or a new one begins. -/
theorem FrontOf.concat {s u : State} {bytes front : List Byte} (hl : cfgLegal s.cfg = true)
    (hc : s.cfg.control = .serial) (h : FrontOf s bytes front u) (b : Byte) :
    ∃ front' t, FrontOf s (bytes ++ [b]) front' t := by
  obtain ⟨hreached, hcfg, hholds, before, w, rfl, hbefore, hw⟩ := h
  obtain ⟨t, ht, htcfg, -, hnext⟩ := hholds.receive_extends (hcfg ▸ hl) (hcfg ▸ hc) b
  have hreached' := receiveFrame_concat hreached ht
  rcases hnext with hholds' | ⟨hwait, hclear⟩
  · exact ⟨front ++ [b], _, hreached', htcfg.trans hcfg, hholds'.setOuts _,
      before, w, List.append_assoc _ _ _, hbefore, hw⟩
  · exact ⟨[], _, .of_wait hreached' (htcfg.trans hcfg) hwait hclear⟩

/-- Whatever bytes come from WAIT on, the parser holds the front of a frame that began in WAIT. -/
theorem exists_frontOf {s : State} (hl : cfgLegal s.cfg = true) (hc : s.cfg.control = .serial) (hs : s.rxState = .wait)
    (hclear : parserClear s) (bytes : List Byte) : ∃ front u, FrontOf s bytes front u := by
  induction bytes using List.reverseRecOn with
  | nil => exact ⟨[], _, .of_wait rfl rfl hs hclear⟩
  | append_singleton bytes b ih =>
    obtain ⟨front, u, h⟩ := ih
    exact h.concat hl hc b

end Sys2Proof.Machine

/-! ### The statements

They stand in `Sys2Proof`: in `Sys2Proof.Machine` the name `rxSizeByte` is the model's. -/

namespace Sys2Proof

open Sys2Proof.Machine

/-- Settles O34: the two equations of RX in DATA, and the buffer's read-after-write. -/
theorem rxDataByte : Obligations.RxDataByte := by
  intro b s hl hc hs
  have hreserved : isReserved s.cfg b = true ↔ s.cfg.reservedPolicy = .reject ∧ (b = 0x3C ∨ b = 0x3E) := by
    simp [isReserved, Config.startByte, Config.endByte]
  refine ⟨fun h => ?_, fun hr hv hk hcount hwf => ?_⟩
  · rw [← hreserved] at h
    exact (receive_badPayloadByte hl hc hs h).trans (congrArg _ (afterError_eq _ s))
  · rw [← hreserved, Bool.not_eq_true] at hr
    exact ⟨_, receive_payloadByte hl hc hs hr hv hk hcount, rfl, Memory.read_write_same _ _ _ _ hwf,
      fun k hne => Memory.read_write_other _ _ _ _ _ hwf hne⟩

/-- Settles O50: the divider and the channel file change with a dispatch record only. -/
theorem onlyTheEndByteDispatches : Obligations.OnlyTheEndByteDispatches := by
  intro b s t h hchange
  have heffect := receive_effect b s t h
  refine heffect.of_dispatched ?_
  rcases hchange with hd | hch | hdiv
  · exact hd
  · exact heffect.writes.ch hch
  · obtain ⟨o, ho, hinit⟩ := heffect.writes.divN hdiv
    exact ⟨o, ho, List.ne_nil_of_mem hinit⟩

/-- Settles O39: the last byte is END_BYTE taken in VALIDATE, where the parser holds the whole front of a well-formed
frame that began in WAIT. -/
theorem onlyValidFramesDispatch : Obligations.OnlyValidFramesDispatch := by
  rintro bytes b s t hl hc hs hclear ht ⟨o, ho, hdisp⟩
  obtain ⟨front, u, hreached, hcfg, hholds, before, w, rfl, hbefore, hw⟩ := exists_frontOf hl hc hs hclear bytes
  obtain ⟨v, hv, -, ⟨p, hp⟩, -⟩ := hholds.receive_extends (hcfg ▸ hl) (hcfg ▸ hc) b
  cases (receiveFrame_concat hreached hv).symm.trans ht
  obtain rfl : p = o := by simpa [hp] using ho
  have hdispatched : dispatched v := ⟨p, hp ▸ List.mem_singleton_self p, hdisp⟩
  obtain ⟨hvalidate, rfl, hwait⟩ := (receive_effect b u v hv).of_dispatched hdispatched
  obtain ⟨size, cmd, head, data, hfront, rfl⟩ := hholds.front hvalidate
  obtain ⟨i, hwf, henc⟩ := (wellFormedFrame_iff hl _).2 ⟨size, cmd, head, data, hcfg ▸ hfront, rfl⟩
  exact ⟨hwait, before, _, i, w, rfl, henc, hwf, hbefore, hw⟩

/-- Settles O40: R37 for each event of the run. -/
theorem halfReceivedFramePersists : Obligations.HalfReceivedFramePersists := by
  intro is s t his h
  induction is generalizing s with
  | nil =>
    cases h
    exact ⟨rfl, rfl, rfl, rfl, rfl⟩
  | cons i is ih =>
    obtain ⟨u, hu, -⟩ := exec_answers i s
    rw [execAll, hu] at h
    obtain ⟨hserial, hreset⟩ := his i (List.mem_cons_self ..)
    have hkept : ParserKept s u := (exec_writeAccess i hu).parser.resolve_left (by simp [hserial, hreset])
    obtain ⟨hstate, hsize, hcmd, hcount, hbuf⟩ := ih u (fun j hj => his j (List.mem_cons_of_mem i hj)) h
    exact ⟨hstate.trans hkept.rxState, hsize.trans hkept.rxSize, hcmd.trans hkept.rxCmd, hcount.trans hkept.rxCount,
      hbuf.trans hkept.rxBuf⟩

/-- Settles O41: the front leads to VALIDATE, and there the wrong terminator clears the parser again. -/
theorem missingTerminatorCountsOnce : Obligations.MissingTerminatorCountsOnce := by
  intro i bytes b s hl hc hs hclear hwf henc hb
  obtain ⟨size, cmd, head, data, hfront, rfl⟩ := (wellFormedFrame_iff hl bytes).1 ⟨i, hwf, henc⟩
  rw [List.dropLast_concat]
  refine (receiveFrame_concat (receiveAll_front hl hc hs hclear hfront) (receive_notEndByte hl hc rfl hb)).trans ?_
  obtain ⟨hsize, hcmd, hcount, hbuf⟩ := hclear
  simp [afterError_eq, counted, hs, hsize, hcmd, hcount, hbuf]

/-- Settles O30: in WAIT the parser is clear, so the recovery clears nothing. -/
theorem rxInWait : Obligations.RxInWait := by
  intro b s hl hc hs hclear
  refine ⟨?_, fun hb => ?_⟩
  · rintro rfl
    exact receive_startByte hl hc hs
  · exact (receive_notStartByte hl hc hs hb).trans (congrArg _ (afterError_of_clear _ hs hclear))

/-- Settles O31: by whether the byte names an output. -/
theorem rxIndexByte : Obligations.RxIndexByte := by
  intro b s hl hc hp hs
  refine ⟨fun h => receive_index hl hc hp hs (decide_eq_true h), fun h => ?_⟩
  have hb : isIndex s.cfg b = false := by
    rw [isIndex, decide_eq_false_iff_not]
    rintro ⟨hlow, hhigh⟩
    rcases h with rfl | h
    · exact absurd hlow (by decide)
    · omega
  exact (receive_badIndex hl hc hp hs hb).trans (congrArg _ (afterError_eq _ s))

/-- Settles O32: by whether the byte is below RX_MAX. -/
theorem rxSizeByte : Obligations.RxSizeByte := by
  intro b s hl hc _ hs
  exact ⟨receive_size hl hc hs, fun h => (receive_badSize hl hc hs h).trans (congrArg _ (afterError_eq _ s))⟩

/-- Settles O33: a code is accepted with its command's payload size. -/
theorem rxCommandByte : Obligations.RxCommandByte := by
  intro b s hl hc hp hs
  have haccepted : commandAccepted s b = true ↔
      b = s.cfg.cmdInit ∧ s.rxSize.toNat = 0 ∨ b = s.cfg.cmdFade ∧ s.rxSize.toNat = 4 ∨
        b = s.cfg.cmdSetVal ∧ s.rxSize.toNat = 2 ∨ b = s.cfg.cmdSetValAll ∧ s.rxSize.toNat = s.cfg.nOut := by
    simp only [commandAccepted_iff, commandOf_eq_some_iff hl, exists_command, codeOf, esize]
  refine ⟨fun h => receive_command hl hc hp hs (haccepted.2 h), fun h => ?_⟩
  rw [← haccepted, Bool.not_eq_true] at h
  exact (receive_badCommand hl hc hp hs h).trans (congrArg _ (afterError_eq _ s))

/-- Settles O35: each code selects its command's row, and every read is inside the buffer. -/
theorem fieldValidatorTable : Obligations.FieldValidatorTable := by
  intro cfg m cmd b k hl
  obtain ⟨-, -, -, ⟨hR, -⟩, -⟩ := (configurationLegality cfg).1 hl
  have hindex : bufRead cfg m 0 = memRead m 0 := bufRead_of_lt hR
  have hsetVal : commandOf cfg cfg.cmdSetVal = some .setVal := commandOf_codeOf_of_legal hl .setVal
  have hfade : commandOf cfg cfg.cmdFade = some .fade := commandOf_codeOf_of_legal hl .fade
  have hsetAll : commandOf cfg cfg.cmdSetValAll = some .setValAll := commandOf_codeOf_of_legal hl .setValAll
  refine ⟨fun hp => by simp [fieldValid, hp], fun hp => ⟨?_, ?_, ?_, ?_, fun h2 => ?_, ?_, fun hk => ?_⟩⟩
  · simp [fieldValid, hp, hsetVal, setValFieldValid, isIndex]
  · simp [fieldValid, hp, hsetVal, setValFieldValid, hindex]
  · simp [fieldValid, hp, hfade, fadeFieldValid, isIndex]
  · simp [fieldValid, hp, hfade, fadeFieldValid, hindex]
  · have hlow : bufRead cfg m 1 = memRead m 1 := bufRead_of_lt h2
    simp [fieldValid, hp, hfade, fadeFieldValid, hindex, hlow]
  · simp [fieldValid, hp, hfade, fadeFieldValid]
  · simp [fieldValid, hp, hsetAll, hk]

/-- Settles O37: the two equations of RX in VALIDATE. -/
theorem rxInValidate : Obligations.RxInValidate := by
  intro b s hl hc hs
  refine ⟨fun hb => ?_, ?_⟩
  · exact (receive_notEndByte hl hc hs hb).trans (congrArg _ (afterError_eq _ s))
  · rintro rfl
    exact receive_endByte hl hc hs

end Sys2Proof
end

section
/-! SUPPORT. The statements of 43_output_assignment.md. What the dispatch of a validated frame writes is said once for
each command (`Dispatches`), over any state whose buffer holds the command's payload; SET_VAL_ALL's fan-out by induction
on the values still to set (`setOutputs_values`). Received in WAIT, a well-formed frame comes to exactly that dispatch
and leaves the parser clear again (`receiveFrame_of_dispatches`). -/

namespace Sys2Proof.Machine

/-! ### The domain test and setOutput -/

/-- The domain test of an index whose domain is known (R203). -/
theorem dom_eq_inDomain {cfg : Cfg} {i : Byte} {d : Domain} (hi : isIndex cfg i = true)
    (hd : cfg.domain[i.toNat - 1]? = some d) (v : Byte) : dom cfg i v = inDomain d v := by
  rw [dom, if_neg (ne_zero_of_isIndex hi), hd]

/-- Every index that names an output has a domain (R7, R8). -/
theorem exists_domain {cfg : Cfg} {i : Byte} (hl : cfgLegal cfg = true) (hi : isIndex cfg i = true) :
    ∃ d, cfg.domain[i.toNat - 1]? = some d := by
  obtain ⟨-, hlen, -⟩ := (configurationLegality cfg).1 hl
  obtain ⟨hlow, hhigh⟩ := of_decide_eq_true hi
  exact ⟨_, List.getElem?_eq_getElem (by omega)⟩

/-- A BOOL output takes 0 and 1 (R203). -/
theorem inDomain_bool_iff (v : Byte) : inDomain .bool v = true ↔ v = 0 ∨ v = 1 := by
  simp only [inDomain, decide_eq_true_eq]
  bv_omega

/-- An index or a value outside its domain changes no state (R224). -/
theorem setOutput_invalid {i v : Byte} {s : State} (o : StepOut)
    (h : ¬(isIndex s.cfg i = true ∧ dom s.cfg i v = true)) :
    setOutput i v s o = (s, { o with err := .outputInvalid i v }) := by
  rw [setOutput, if_neg (by rwa [Bool.and_eq_true])]

/-! ### What a command's dispatch writes -/

/-- The dispatch from `u` (R201) writes the channel file and the divider, adds the records, raises no error, and leaves
the rest of the state. -/
def Dispatches (u : State) (ch : List Channel) (div : Byte) (records : List DispatchRecord) : Prop :=
  dispatch u .quiet = ({ u with ch := ch, divN := div }, { StepOut.quiet with disp := records })

/-- A valid setOutput as a dispatch (R200): what R202 and R208 have in common. -/
theorem dispatches_of_setOutput {u : State} {i v : Byte} (h : dispatch u .quiet = setOutput i v u .quiet)
    (hi : isIndex u.cfg i = true) (hv : dom u.cfg i v = true) :
    Dispatches u (u.ch.set (i.toNat - 1) (solidChannel v)) u.divN [.setOutput i v] :=
  h.trans (setOutput_valid i v u .quiet hi hv)

/-- FRAME2_SET (R202). -/
theorem dispatches_frame2 {u : State} {v : Byte} (hp : u.cfg.protocol = .twoField) (hR : 1 ≤ u.cfg.rxMax)
    (hbuf : u.rxBuf = fill 0 [v] []) (hi : isIndex u.cfg u.rxCmd = true) (hv : dom u.cfg u.rxCmd v = true) :
    Dispatches u (u.ch.set (u.rxCmd.toNat - 1) (solidChannel v)) u.divN [.setOutput u.rxCmd v] := by
  refine dispatches_of_setOutput ?_ hi hv
  have hvalue : bufRead u.cfg u.rxBuf 0 = v := hbuf ▸ bufRead_fill [v] hR (j := 0) (by simp)
  simp only [dispatch, hp, frame2Set, hvalue]

section
variable {u : State} (hp : u.cfg.protocol = .multiField)
include hp

/-- CMD_INIT_EXEC (R206). -/
theorem dispatches_init (hk : commandOf u.cfg u.rxCmd = some .init) :
    Dispatches u (List.replicate u.ch.length offChannel) 0 [.init] := by
  simp [Dispatches, dispatch, hp, hk, cmdInitExec, StepOut.quiet]

/-- CMD_FADE_EXEC (R207). -/
theorem dispatches_fade {i lo hi st : Byte} (hk : commandOf u.cfg u.rxCmd = some .fade) (hR : 4 < u.cfg.rxMax)
    (hbuf : u.rxBuf = fill 0 [i, lo, hi, st] []) (hindex : isIndex u.cfg i = true) :
    Dispatches u (u.ch.set (i.toNat - 1) (fadeChannel lo hi st)) u.divN [.fade i lo hi st] := by
  have hread {j : Nat} (hj : j < 4) : bufRead u.cfg u.rxBuf j = [i, lo, hi, st][j] :=
    hbuf ▸ bufRead_fill [i, lo, hi, st] hR.le hj
  simp [Dispatches, dispatch, hp, hk, cmdFadeExec, hread, fadeOutput, hindex, selectFade, setChannel, StepOut.quiet]

/-- CMD_SET_VAL_EXEC (R208). -/
theorem dispatches_setVal {i v : Byte} (hk : commandOf u.cfg u.rxCmd = some .setVal) (hR : 2 < u.cfg.rxMax)
    (hbuf : u.rxBuf = fill 0 [i, v] []) (hi : isIndex u.cfg i = true) (hv : dom u.cfg i v = true) :
    Dispatches u (u.ch.set (i.toNat - 1) (solidChannel v)) u.divN [.setOutput i v] := by
  refine dispatches_of_setOutput ?_ hi hv
  have hread {j : Nat} (hj : j < 2) : bufRead u.cfg u.rxBuf j = [i, v][j] :=
    hbuf ▸ bufRead_fill [i, v] hR.le hj
  simp [dispatch, hp, hk, cmdSetValExec, hread]

end

/-! ### The fan-out of SET_VAL_ALL -/

/-- The outputs after the first `front.length`, set one by one to the values the buffer holds for them (R209): the
channels before them stay, and the records are added in index order. -/
theorem setOutputs_values (vs : List Byte) {front back : List Channel} {u : State} (o : StepOut)
    (hch : u.ch = front ++ back) (hback : back.length = vs.length) (hN : u.ch.length = u.cfg.nOut)
    (hmax : u.cfg.nOut ≤ 255)
    (hread : ∀ j (hj : j < vs.length), bufRead u.cfg u.rxBuf (front.length + j) = vs[j])
    (hv : valuesInDomain u.cfg front.length vs = true) :
    setOutputs (List.range' front.length vs.length) u o =
      ({ u with ch := front ++ vs.map solidChannel },
        { o with disp := o.disp ++
            vs.mapIdx fun j v => .setOutput (BitVec.ofNat 8 (front.length + j + 1)) v }) := by
  induction vs generalizing front back u o with
  | nil =>
    obtain rfl := List.length_eq_zero_iff.1 hback
    simp [setOutputs, ← hch]
  | cons v vs ih =>
    obtain ⟨c, back, rfl⟩ := List.exists_cons_of_length_eq_add_one hback
    have hlen : front.length + (back.length + 1) = u.cfg.nOut := by
      rw [← hN, hch, List.length_append, List.length_cons]
    have hindex : (BitVec.ofNat 8 (front.length + 1)).toNat = front.length + 1 := Nat.mod_eq_of_lt (by omega)
    have hvalue : bufRead u.cfg u.rxBuf front.length = v := hread 0 (by simp)
    rw [valuesInDomain, Bool.and_eq_true] at hv
    obtain ⟨hdom, hrest⟩ := hv
    have hfirst : setOutput (BitVec.ofNat 8 (front.length + 1)) v u o =
        ({ u with ch := (front ++ [solidChannel v]) ++ back },
          { o with disp := o.disp ++ [.setOutput (BitVec.ofNat 8 (front.length + 1)) v] }) := by
      rw [setOutput_valid _ _ _ _ (decide_eq_true (by omega)) hdom, hindex]
      simp [selectSolid, setChannel, hch]
    have hnext := ih (front := front ++ [solidChannel v]) (back := back)
      (u := { u with ch := (front ++ [solidChannel v]) ++ back })
      { o with disp := o.disp ++ [.setOutput (BitVec.ofNat 8 (front.length + 1)) v] }
      rfl (by simpa using hback) (by simpa using hlen) hmax
      (fun j hj => by simpa [Nat.add_assoc, Nat.add_comm 1] using hread (j + 1) (Nat.succ_lt_succ hj))
      (by simpa using hrest)
    rw [List.length_append, List.length_singleton] at hnext
    rw [List.length_cons, List.range'_succ, setOutputs, hvalue, hfirst, hnext]
    simp [List.mapIdx_cons, Nat.add_assoc, Nat.add_comm 1]

/-- CMD_SET_VAL_ALL_EXEC (R209). -/
theorem dispatches_setValAll {u : State} {vs : List Byte} (hl : cfgLegal u.cfg = true)
    (hp : u.cfg.protocol = .multiField) (hk : commandOf u.cfg u.rxCmd = some .setValAll)
    (hR : vs.length ≤ u.cfg.rxMax) (hbuf : u.rxBuf = fill 0 vs []) (hch : u.ch.length = u.cfg.nOut)
    (hlen : vs.length = u.cfg.nOut) (hv : valuesInDomain u.cfg 0 vs = true) :
    Dispatches u (vs.map solidChannel) u.divN (vs.mapIdx fun k v => .setOutput (BitVec.ofNat 8 (k + 1)) v) := by
  obtain ⟨⟨-, hmax⟩, -⟩ := (configurationLegality u.cfg).1 hl
  have hall := setOutputs_values vs (front := []) .quiet (List.nil_append u.ch).symm (hch.trans hlen.symm) hch hmax
    (fun j hj => by simpa [hbuf] using bufRead_fill vs hR hj) hv
  rw [List.length_nil, ← List.range_eq_range', hlen] at hall
  simpa [Dispatches, dispatch, hp, hk, cmdSetValAllExec, StepOut.quiet] using hall

/-! ### A well-formed frame received in WAIT -/

/-- The state in which END_BYTE finds the parser: the head's bytes in its registers, the payload in its buffer. -/
def validated (size cmd : Byte) (data : List Byte) (o : List StepOut) (s : State) : State :=
  { s with
    rxState := .validate, rxSize := size, rxCmd := cmd, rxCount := size, rxBuf := fill 0 data []
    outs := o }

/-- A frame leaves what its dispatch writes and one quiet record for each byte before END_BYTE: the parser is clear
again (R167, R201). -/
theorem receiveFrame_of_dispatches {s : State} {size cmd : Byte} {head data : List Byte} {ch : List Channel}
    {div : Byte} {records : List DispatchRecord} (hl : cfgLegal s.cfg = true) (hc : s.cfg.control = .serial)
    (hs : s.rxState = .wait) (hclear : parserClear s) (hfront : FrameFront s.cfg size cmd head data)
    (hd : ∀ o, Dispatches (validated size cmd data o s) ch div records) :
    receiveFrame (head ++ data ++ [Config.endByte]) s = .next
      { s with
        ch := ch, divN := div
        outs := List.replicate (head ++ data).length .quiet ++
          [{ disp := records, err := .none, consumed := false }] } := by
  have hvalidate : receiveFrame (head ++ data) s =
      .next (validated size cmd data (List.replicate (head ++ data).length .quiet) s) :=
    receiveAll_front (s := { s with outs := [] }) hl hc hs hclear hfront
  refine (receiveFrame_concat hvalidate (receive_endByte hl hc rfl)).trans ?_
  obtain ⟨hsize, hcmd, hcount, hbuf⟩ := hclear
  rw [hd]
  simp [validated, emit, toWait, StepOut.quiet, hs, hsize, hcmd, hcount, hbuf]

/-- The same for the instruction of a command's payload (R74, R81): START, SIZE and COMMAND come before it. -/
theorem exec_of_dispatches {s : State} {c : Byte} {data : List Byte} {i : Instr} {ch : List Channel} {div : Byte}
    {records : List DispatchRecord} (hl : cfgLegal s.cfg = true) (hc : s.cfg.control = .serial)
    (hp : s.cfg.protocol = .multiField) (hs : s.rxState = .wait) (hclear : parserClear s)
    (hdec : decodeCommand s.cfg c data = .ok i) (hw : i.wellFormed s.cfg = true)
    (hd : ∀ size o, Dispatches (validated size c data o s) ch div records) :
    exec i s = .next
      { s with
        ch := ch, divN := div
        outs := List.replicate (data.length + 3) .quiet ++
          [{ disp := records, err := .none, consumed := false }] } := by
  obtain ⟨hR, hpass⟩ := (decodeCommand_wellFormed_iff hp hdec).1 hw
  obtain ⟨k, hk, hlen⟩ := esize_of_decodeCommand hdec
  have hsize : (BitVec.ofNat 8 data.length).toNat = data.length :=
    Nat.mod_eq_of_lt (hlen ▸ esize_lt_of_legal hl k)
  have hhead := FrameHead.multiField k hp hk (hsize.trans hlen) (hsize.trans_lt hR)
  rw [exec_of_encode_frame (encode_of_decodeCommand hdec)]
  refine (receiveFrame_of_dispatches hl hc hs hclear ⟨hhead, hsize.symm, hpass⟩ (hd _)).trans ?_
  simp

/-! ### The statements -/

/-- Settles O44: the frame's payload is its VALUE, which the dispatch assigns to INDEX. -/
theorem frame2SetsTheOutput : Obligations.Frame2SetsTheOutput := by
  intro i v s hl hc hp hs hclear hlow hhigh hv hreserved
  obtain ⟨-, -, -, ⟨hR, -⟩, -⟩ := (configurationLegality s.cfg).1 hl
  have hi : isIndex s.cfg i = true := decide_eq_true ⟨hlow, hhigh⟩
  have hnot : isReserved s.cfg v = false := by
    simpa [isReserved, Config.startByte, Config.endByte] using hreserved
  have hpass : payloadPasses s.cfg i 0 [] [v] := ⟨hnot, by simpa [fieldValid, hp] using hv, trivial⟩
  exact ⟨rfl, receiveFrame_of_dispatches hl hc hs hclear ⟨.twoField hp hi rfl, rfl, hpass⟩
    fun _ => dispatches_frame2 hp hR rfl hi hv⟩

/-- Settles O45: INIT has no payload, and its dispatch is R206. -/
theorem initTurnsEveryOutputOff : Obligations.InitTurnsEveryOutputOff := by
  intro s hl hc hp hs hclear hch
  obtain ⟨-, -, -, ⟨hR, -⟩, -⟩ := (configurationLegality s.cfg).1 hl
  have hpos : 0 < s.cfg.rxMax := hR
  have hk : commandOf s.cfg s.cfg.cmdInit = some .init := commandOf_codeOf_of_legal hl .init
  have hw : Instr.init.wellFormed s.cfg = true := by simp [Instr.wellFormed, hp, hpos]
  have hdec : decodeCommand s.cfg s.cfg.cmdInit [] = .ok .init := decodeCommand_ok_iff.2 (.inl ⟨hk, rfl, rfl⟩)
  exact ⟨rfl, exec_of_dispatches hl hc hp hs hclear hdec hw fun _ _ => hch ▸ dispatches_init hp hk⟩

/-- Settles O46: a payload that passes has an INDEX that names an output, so R207 selects the fade on it. -/
theorem fadeFrameSelectsTheFade : Obligations.FadeFrameSelectsTheFade := by
  intro i lo hi st s hl hc hp hs hclear hw
  have hk : commandOf s.cfg s.cfg.cmdFade = some .fade := commandOf_codeOf_of_legal hl .fade
  have hdec : decodeCommand s.cfg s.cfg.cmdFade [i, lo, hi, st] = .ok (.fade i lo hi st) :=
    decodeCommand_ok_iff.2 (.inr (.inl ⟨hk, _, _, _, _, rfl, rfl⟩))
  obtain ⟨hR, hpass⟩ := (decodeCommand_wellFormed_iff hp hdec).1 hw
  obtain ⟨⟨hindex, -⟩, -⟩ := (payloadPasses_fade hp hk hR i lo hi st).1 hpass
  exact ⟨rfl, exec_of_dispatches hl hc hp hs hclear hdec hw
    fun size o => dispatches_fade (u := validated size _ _ o s) hp hk hR rfl hindex⟩

/-- Settles O47: a payload that passes is valid for setOutput, which R208 calls as R202 does. -/
theorem setValSetsTheOutput : Obligations.SetValSetsTheOutput := by
  intro i v s hl hc hp hs hclear hw
  have hk : commandOf s.cfg s.cfg.cmdSetVal = some .setVal := commandOf_codeOf_of_legal hl .setVal
  have hdec : decodeCommand s.cfg s.cfg.cmdSetVal [i, v] = .ok (.setval i v) :=
    decodeCommand_ok_iff.2 (.inr (.inr (.inl ⟨hk, _, _, rfl, rfl⟩)))
  obtain ⟨hR, hpass⟩ := (decodeCommand_wellFormed_iff hp hdec).1 hw
  obtain ⟨⟨hindex, hv⟩, -⟩ := (payloadPasses_setVal hp hk hR i v).1 hpass
  exact ⟨rfl, exec_of_dispatches hl hc hp hs hclear hdec hw
    fun size o => dispatches_setVal (u := validated size _ _ o s) hp hk hR rfl hindex hv⟩

/-- Settles O48: a payload that passes has a valid value for each output, and the fan-out sets them all. -/
theorem setAllSetsEveryOutput : Obligations.SetAllSetsEveryOutput := by
  intro vs s hl hc hp hs hclear hch hw
  have hk : commandOf s.cfg s.cfg.cmdSetValAll = some .setValAll := commandOf_codeOf_of_legal hl .setValAll
  have hlen : vs.length = s.cfg.nOut := by
    simp only [Instr.wellFormed, Bool.and_eq_true, decide_eq_true_eq] at hw
    obtain ⟨⟨⟨-, hlen⟩, -⟩, -⟩ := hw
    exact hlen
  have hdec : decodeCommand s.cfg s.cfg.cmdSetValAll vs = .ok (.setall vs) :=
    decodeCommand_ok_iff.2 (.inr (.inr (.inr ⟨hk, hlen, rfl⟩)))
  obtain ⟨hR, hpass⟩ := (decodeCommand_wellFormed_iff hp hdec).1 hw
  obtain ⟨hv, -⟩ := (payloadPasses_setValAll hp hk 0 [] vs (by omega)).1 hpass
  rw [← hlen]
  exact ⟨rfl, exec_of_dispatches hl hc hp hs hclear hdec hw
    fun _ _ => dispatches_setValAll hl hp hk hR.le rfl hch hlen hv⟩

/-- Settles O36: the test is the one of the output's domain, and every output has a domain. -/
theorem domainTest : Obligations.DomainTest := by
  intro cfg i v hl hlow hhigh
  have hi : isIndex cfg i = true := decide_eq_true ⟨hlow, hhigh⟩
  refine ⟨fun hd => ?_, fun hd => dom_eq_inDomain hi hd v, ?_⟩
  · rw [dom_eq_inDomain hi hd, inDomain_bool_iff]
  · obtain ⟨d, hd⟩ := exists_domain hl hi
    cases d with
    | bool => exact .inl hd
    | byte => exact .inr hd

/-- Settles O43: setOutput by whether the index and the value are valid. -/
theorem setOutputContract : Obligations.SetOutputContract := by
  intro i v s o
  rw [← decide_eq_true_iff (p := 1 ≤ i.toNat ∧ i.toNat ≤ s.cfg.nOut)]
  exact ⟨fun ⟨hi, hv⟩ => setOutput_valid i v s o hi hv, setOutput_invalid o⟩

end Sys2Proof.Machine
end

section
/-! SUPPORT. The statement of 60_exceptions.md. The error an output record shows tells what its RX was
(`RxEffect.of_mem_outs`): one of the three parser classes comes from their recovery only, and under any other record the
error count stays. -/

namespace Sys2Proof.Machine

/-! ### The three parser classes -/

/-- NONE and OUTPUT_INVALID are not of the parser's classes (R220). -/
theorem isRxError.ne_none_and_outputInvalid {b : Byte} {e : StepError} (h : isRxError b e) :
    ¬(e = .none ∨ ∃ i v, e = .outputInvalid i v) := by
  rcases h with rfl | rfl | rfl | rfl <;> simp

/-- Which of the errors an RX of `b` can raise are counted (R223). -/
theorem counted_iff_of_isRxError (cfg : Cfg) {b : Byte} {e : StepError} (h : isRxError b e) :
    counted cfg e = true ↔
      e = .frameSyntax b ∨ (e = .fieldRange b ∨ e = .bufferOverflow b) ∧ cfg.countRangeErrors = true := by
  rcases h with rfl | rfl | rfl | rfl <;> simp [counted]

/-! ### What an RX's output record tells -/

/-- An RX whose record shows a parser error is that error's recovery (R222); any other record shows no error or an
OUTPUT_INVALID, and its RX counts nothing (R223, R224). -/
theorem RxEffect.of_mem_outs {b : Byte} {s t : State} {o : StepOut} (h : RxEffect b s t) (ho : o ∈ t.outs) :
    isRxError b o.err ∧ t = afterError o.err s ∨
      (o.err = .none ∨ ∃ i v, o.err = .outputInvalid i v) ∧ t.errCount = s.errCount := by
  cases h with
  | refused => cases ho
  | error e he =>
    obtain rfl := List.mem_singleton.1 ho
    exact .inl ⟨he, rfl⟩
  | moved t hm =>
    rw [hm] at ho ⊢
    obtain rfl := List.mem_singleton.1 ho
    exact .inr ⟨.inl rfl, rfl⟩
  | dispatched _ _ =>
    obtain rfl := List.mem_singleton.1 ho
    exact .inr ⟨(dispatch_effect s .quiet).err, dispatch_errCount s .quiet⟩

/-! ### The statement -/

/-- Settles O49: the record's error tells what the RX was, and setOutput errs only where it is a no-op. -/
theorem parserErrorsRecoverToWait : Obligations.ParserErrorsRecoverToWait := by
  refine ⟨fun b s t o h hout he => ?_, fun i v s u o p h ho hp => ?_, fun b i v s t h ⟨o, ho, herr⟩ => ?_⟩
  · have hmem : o ∈ t.outs := hout ▸ List.mem_singleton_self o
    obtain ⟨-, rfl⟩ | ⟨hother, -⟩ := (receive_effect b s t h).of_mem_outs hmem
    · have hrecord : { disp := [], err := o.err, consumed := false } = o := List.singleton_inj.1 hout
      refine ⟨congrArg StepOut.disp hrecord.symm, ?_⟩
      simp only [afterError_eq, hrecord, counted_iff_of_isRxError s.cfg he]
    · exact absurd hother (isRxError.ne_none_and_outputInvalid he)
  · by_cases hvalid : isIndex s.cfg i = true ∧ dom s.cfg i v = true
    · obtain ⟨hi, hv⟩ := hvalid
      cases (setOutput_valid i v s o hi hv).symm.trans h
      exact absurd ho hp
    · cases (setOutput_invalid o hvalid).symm.trans h
      exact ⟨rfl, rfl⟩
  · obtain ⟨he, -⟩ | ⟨-, hcount⟩ := (receive_effect b s t h).of_mem_outs ho
    · exact absurd (.inr ⟨i, v, herr⟩) he.ne_none_and_outputInvalid
    · exact hcount

end Sys2Proof.Machine
end

section
/-! SUPPORT. The statements of 70_reset_and_hazards.md. RESET is one record update. For R258 the END_BYTEs are followed
one by one: each takes the parser one byte nearer to WAIT (`bytesToWait`), and a dispatch or a counted error uses up the
one pending frame (`framesPending`), which no END_BYTE opens again (`EndByteRun`, `receive_endByte_runs`). -/

namespace Sys2Proof.Machine

/-! ### RESET -/

/-- Settles O1: the event word decodes, and a well-formed configuration admits RESET. -/
theorem resetWritesEveryResetValue : Obligations.ResetWritesEveryResetValue :=
  ⟨by decide, fun _ hl => if_pos hl⟩

/-! ### The RX events of a burst, one by one -/

/-- RX instructions one by one leave what the burst of their bytes leaves, whatever the output records before them and
the inputs still to come: each instruction replaces the records, so the last ones differ. -/
theorem execAll_rx (bs : List Byte) {s t : State} (o : List StepOut) (x : List Input) (h : receiveAll bs s = .next t) :
    ∃ o', execAll (bs.map .rx) (relabel o x s) = .next (relabel o' x t) := by
  induction bs generalizing s o with
  | nil =>
    cases h
    exact ⟨o, rfl⟩
  | cons b bs ih =>
    obtain ⟨u, hu⟩ := receive_next b s
    rw [receiveAll_cons b bs s u hu] at h
    obtain ⟨o', hrest⟩ := ih u.outs h
    exact ⟨o', (execAll_cons (i := .rx b) (bs.map .rx) (receive_relabel b s u o x hu)).trans hrest⟩

/-- A burst is its RX events one by one, but for the output records. -/
theorem execAll_rx_of_receiveFrame {bs : List Byte} {s t : State} (h : receiveFrame bs s = .next t) :
    ∃ u, execAll (bs.map .rx) s = .next u ∧ t = { u with outs := t.outs } := by
  obtain ⟨o', hrun⟩ := execAll_rx bs s.outs s.inputs h
  obtain ⟨v, hv, hframe⟩ := receiveFrame_answers bs s
  cases hv.symm.trans h
  refine ⟨_, hrun, ?_⟩
  rw [← hframe.inputs]
  rfl

/-! ### A run of END_BYTEs -/

/-- A bound on the END_BYTEs until the parser is in WAIT: the bytes the pending frame still lacks, but one in SIZE,
where END_BYTE ends it (R164). The invariant excludes the unused states. -/
def bytesToWait (s : State) : Nat :=
  match s.rxState with
  | .wait => 0
  | .size => 1
  | .commandOrIndex => s.rxSize.toNat + 2
  | .data => s.rxSize.toNat - s.rxCount.toNat + 1
  | .validate => 1
  | .unused5 => 1
  | .unused6 => 1
  | .unused7 => 1

/-- The frames received in part: one in every state but WAIT. -/
def framesPending (s : State) : Nat := if s.rxState = .wait then 0 else 1

/-- How many of the steps with these records dispatched something (R71). -/
def dispatches (l : List StepOut) : Nat := l.countP fun o => decide (o.disp ≠ [])

theorem bytesToWait_eq_zero_iff {s : State} : bytesToWait s = 0 ↔ s.rxState = .wait := by
  cases hs : s.rxState <;> simp [bytesToWait, hs]

theorem bytesToWait_commandOrIndex {s : State} (hs : s.rxState = .commandOrIndex) :
    bytesToWait s = s.rxSize.toNat + 2 := by
  simp [bytesToWait, hs]

theorem bytesToWait_data {s : State} (hs : s.rxState = .data) :
    bytesToWait s = s.rxSize.toNat - s.rxCount.toNat + 1 := by
  simp [bytesToWait, hs]

/-- A taken byte leads to VALIDATE or to DATA, by whether the payload is complete (R165, R166). -/
theorem bytesToWait_le_of_validate_or_data {s : State} {complete : Prop} [Decidable complete] {n : Nat}
    (hs : s.rxState = if complete then .validate else .data) (hn : 1 ≤ n)
    (hmissing : s.rxSize.toNat - s.rxCount.toNat + 1 ≤ n) : bytesToWait s ≤ n := by
  split at hs
  · simpa [bytesToWait, hs] using hn
  · exact (bytesToWait_data hs).trans_le hmissing

theorem framesPending_of_ne_wait {s : State} (hs : s.rxState ≠ .wait) : framesPending s = 1 := if_neg hs

theorem framesPending_le_one (s : State) : framesPending s ≤ 1 := by
  unfold framesPending
  split <;> decide

/-- Under the invariant RX_MAX + 1 END_BYTEs are enough: the command, at most RX_MAX - 1 payload bytes, and the
terminator. -/
theorem BlockInv.bytesToWait_le {s : State} (h : BlockInv s) : bytesToWait s ≤ s.cfg.rxMax + 1 := by
  obtain ⟨-, -, -, ⟨hR, -⟩, -⟩ := (configurationLegality s.cfg).1 h.cfg
  obtain ⟨h5, h6, h7⟩ := parserGood_used h.parser
  unfold bytesToWait
  split
  case h_3 hs =>
    cases hp : s.cfg.protocol with
    | twoField =>
      obtain ⟨-, -, -, hsize⟩ := (parserGood_index hs hp).1 h.parser
      rw [hsize]
      exact Nat.succ_le_succ hR
    | multiField =>
      obtain ⟨-, -, -, hsize⟩ := (parserGood_command hs hp).1 h.parser
      omega
  case h_4 hs =>
    obtain ⟨hpay, -⟩ := (parserGood_data hs).1 h.parser
    have hsize := hpay.size_le hR
    omega
  all_goals omega

/-- What `n` END_BYTEs that left the records `l` did between `s` and `t`: the parser is `n` bytes nearer to WAIT, and
the frames dispatched and the errors counted, `c` of them, came out of the frames that were pending. -/
structure EndByteRun (n : Nat) (s t : State) (l : List StepOut) : Prop where
  length : l.length = n
  nearer : bytesToWait t ≤ bytesToWait s - n
  ended : ∃ c : Nat, t.errCount = s.errCount + BitVec.ofNat 8 c ∧
    dispatches l + c + framesPending t ≤ framesPending s

theorem EndByteRun.refl (s : State) : EndByteRun 0 s s [] :=
  ⟨rfl, le_rfl, 0, (BitVec.add_zero _).symm, by simp [dispatches]⟩

theorem EndByteRun.trans {m n : Nat} {s u t : State} {k l : List StepOut} (h₁ : EndByteRun m s u k)
    (h₂ : EndByteRun n u t l) : EndByteRun (m + n) s t (k ++ l) := by
  obtain ⟨hlen₁, hnear₁, c, herr₁, hle₁⟩ := h₁
  obtain ⟨hlen₂, hnear₂, d, herr₂, hle₂⟩ := h₂
  refine ⟨by rw [List.length_append, hlen₁, hlen₂], by omega, c + d, ?_, ?_⟩
  · rw [herr₂, herr₁, BitVec.add_assoc, BitVec.ofNat_add]
  · have happend : dispatches (k ++ l) = dispatches k + dispatches l := List.countP_append
    omega

/-- An END_BYTE that raises an error ends the pending frame (R222); without one, in WAIT, the error is not counted. -/
theorem endByteRun_error {s : State} {e : StepError} (h : counted s.cfg e = true → s.rxState ≠ .wait) :
    EndByteRun 1 s (afterError e s) (afterError e s).outs := by
  rw [afterError_eq]
  refine ⟨rfl, Nat.zero_le _, ?_⟩
  cases hcounted : counted s.cfg e with
  | false => exact ⟨0, (BitVec.add_zero _).symm, Nat.zero_le _⟩
  | true => exact ⟨1, rfl, (framesPending_of_ne_wait (h hcounted)).ge⟩

/-- An END_BYTE that the pending frame takes: it is one byte nearer to its end. -/
theorem endByteRun_moved {s t : State} (hs : s.rxState ≠ .wait) (herr : t.errCount = s.errCount)
    (hnear : bytesToWait t ≤ bytesToWait s - 1) : EndByteRun 1 s t [.quiet] := by
  refine ⟨rfl, hnear, 0, by rw [herr]; simp, ?_⟩
  rw [framesPending_of_ne_wait hs]
  exact (Nat.zero_add _).trans_le (framesPending_le_one t)

/-- The END_BYTE that dispatches the pending frame (R167). -/
theorem endByteRun_dispatched {s : State} (hs : s.rxState = .validate) :
    EndByteRun 1 s (emit (dispatch s .quiet).2 (toWait (dispatch s .quiet).1)) [(dispatch s .quiet).2] := by
  refine ⟨rfl, Nat.zero_le _, 0, by simp, ?_⟩
  rw [framesPending_of_ne_wait (s := s) (by simp [hs])]
  exact List.countP_le_length

/-- The states R258 speaks of: END_BYTE, 62, is neither an INDEX nor a SIZE there. -/
structure EndByteEnds (s : State) : Prop where
  inv : BlockInv s
  serial : s.cfg.control = .serial
  noIndex : s.cfg.nOut < 62
  noSize : s.cfg.rxMax ≤ 62

/-- An END_BYTE where the command or the index is due. -/
theorem receive_endByte_commandOrIndex {s : State} (h : EndByteEnds s) (hs : s.rxState = .commandOrIndex) :
    ∃ t, receive Config.endByte s = .next t ∧ EndByteRun 1 s t t.outs := by
  have hl := h.inv.cfg
  have hne : s.rxState ≠ .wait := by simp [hs]
  cases hp : s.cfg.protocol with
  | twoField =>
    have hindex : isIndex s.cfg Config.endByte = false :=
      decide_eq_false fun ⟨_, hle⟩ => absurd hle (not_le_of_gt h.noIndex)
    exact ⟨_, receive_badIndex hl h.serial hp hs hindex, endByteRun_error fun _ => hne⟩
  | multiField =>
    cases haccepted : commandAccepted s Config.endByte with
    | false => exact ⟨_, receive_badCommand hl h.serial hp hs haccepted, endByteRun_error fun _ => hne⟩
    | true =>
      refine ⟨_, receive_command hl h.serial hp hs haccepted, endByteRun_moved hne rfl ?_⟩
      rw [bytesToWait_commandOrIndex hs]
      exact bytesToWait_le_of_validate_or_data rfl (by omega) (Nat.succ_le_succ (Nat.sub_le _ _))

/-- An END_BYTE where a payload byte is due. -/
theorem receive_endByte_data {s : State} (h : EndByteEnds s) (hs : s.rxState = .data) :
    ∃ t, receive Config.endByte s = .next t ∧ EndByteRun 1 s t t.outs := by
  have hl := h.inv.cfg
  have hne : s.rxState ≠ .wait := by simp [hs]
  obtain ⟨-, -, -, ⟨hR, -⟩, -⟩ := (configurationLegality s.cfg).1 hl
  obtain ⟨hpay, hlt⟩ := (parserGood_data hs).1 h.inv.parser
  have hsize := hpay.size_le hR
  have hmax := h.noSize
  by_cases hbad : isReserved s.cfg Config.endByte = true ∨
      fieldValid s.cfg s.rxCmd s.rxBuf s.rxCount.toNat Config.endByte = false
  · exact ⟨_, receive_badPayloadByte hl h.serial hs hbad, endByteRun_error fun _ => hne⟩
  · simp only [not_or, Bool.not_eq_true, Bool.not_eq_false] at hbad
    obtain ⟨hreserved, hvalid⟩ := hbad
    refine ⟨_, receive_payloadByte hl h.serial hs hreserved hvalid (by omega) (by omega), endByteRun_moved hne rfl ?_⟩
    have hnext : (s.rxCount + 1).toNat = s.rxCount.toNat + 1 := by bv_omega
    rw [bytesToWait_data hs]
    refine bytesToWait_le_of_validate_or_data rfl (by omega) ?_
    show s.rxSize.toNat - (s.rxCount + 1).toNat + 1 ≤ _
    omega

/-- An END_BYTE, by the parser's state. -/
theorem receive_endByte_runs {s : State} (h : EndByteEnds s) :
    ∃ t, receive Config.endByte s = .next t ∧ EndByteRun 1 s t t.outs := by
  have hl := h.inv.cfg
  obtain ⟨h5, h6, h7⟩ := parserGood_used h.inv.parser
  cases hs : s.rxState with
  | wait => exact ⟨_, receive_notStartByte hl h.serial hs (by decide), endByteRun_error (by simp [counted])⟩
  | size => exact ⟨_, receive_badSize hl h.serial hs h.noSize, endByteRun_error fun _ => by simp [hs]⟩
  | commandOrIndex => exact receive_endByte_commandOrIndex h hs
  | data => exact receive_endByte_data h hs
  | validate => exact ⟨_, receive_endByte hl h.serial hs, endByteRun_dispatched hs⟩
  | unused5 => exact absurd hs h5
  | unused6 => exact absurd hs h6
  | unused7 => exact absurd hs h7

/-- An END_BYTE leads to a state R258 speaks of, whatever output records it is given. -/
theorem EndByteEnds.next {s t : State} (h : EndByteEnds s) (ht : receive Config.endByte s = .next t)
    (o : List StepOut) : EndByteEnds { t with outs := o } := by
  obtain ⟨h5, h6, h7⟩ := parserGood_used h.inv.parser
  obtain ⟨u, -, hu, -, -, hcfg, hinv⟩ := rxAlwaysCompletes Config.endByte s h.inv.cfg h.serial h5 h6 h7
  cases hu.symm.trans ht
  exact ⟨(hinv h.inv).relabel _ o _, hcfg ▸ h.serial, hcfg ▸ h.noIndex, hcfg ▸ h.noSize⟩

/-- The RX events of `n` END_BYTEs. -/
theorem receiveAll_endBytes (n : Nat) {s : State} (h : EndByteEnds s) :
    ∃ t l, receiveAll (List.replicate n Config.endByte) s = .next t ∧ t.outs = s.outs ++ l ∧ EndByteRun n s t l := by
  induction n generalizing s with
  | zero => exact ⟨s, [], rfl, (List.append_nil _).symm, .refl s⟩
  | succ n ih =>
    obtain ⟨u, hu, hfirst⟩ := receive_endByte_runs h
    obtain ⟨t, l, ht, houts, hrest⟩ := ih (h.next hu (s.outs ++ u.outs))
    refine ⟨t, u.outs ++ l, (receiveAll_cons _ _ s u hu).trans ht, houts.trans (List.append_assoc _ _ _), ?_⟩
    rw [Nat.add_comm]
    exact hfirst.trans ⟨hrest.length, hrest.nearer, hrest.ended⟩

/-- A run of END_BYTEs dispatches at most one frame or counts at most one error, not both. -/
theorem EndByteRun.dispatched_or_counted {n : Nat} {s t : State} {l : List StepOut} (h : EndByteRun n s t l) :
    dispatches l = 0 ∧ (t.errCount = s.errCount ∨ t.errCount = s.errCount + 1) ∨
      dispatches l = 1 ∧ t.errCount = s.errCount := by
  obtain ⟨c, herr, hle⟩ := h.ended
  have hone := framesPending_le_one s
  obtain rfl | rfl : c = 0 ∨ c = 1 := by omega
  · have hsame : t.errCount = s.errCount := herr.trans (BitVec.add_zero _)
    obtain hd | hd : dispatches l = 0 ∨ dispatches l = 1 := by omega
    · exact .inl ⟨hd, .inl hsame⟩
    · exact .inr ⟨hd, hsame⟩
  · exact .inl ⟨by omega, .inr herr⟩

/-- Settles O42: RX_MAX + 1 = 9 END_BYTEs are enough to reach WAIT, and the tenth changes no register there. -/
theorem endBytesResynchronise : Obligations.EndBytesResynchronise := by
  intro s hinv hc hn hR
  have h : EndByteEnds { s with outs := [] } := ⟨hinv.relabel _ _ _, hc, by simp [hn], by simp [hR]⟩
  obtain ⟨t, l, ht, rfl, hrun⟩ := receiveAll_endBytes 10 h
  have hbound := h.inv.bytesToWait_le
  have hnear := hrun.nearer
  have hwait : bytesToWait t = 0 := by simp only [hR] at hbound; omega
  exact ⟨t, ht, execAll_rx_of_receiveFrame ht, bytesToWait_eq_zero_iff.1 hwait, hrun.length,
    hrun.dispatched_or_counted⟩

end Sys2Proof.Machine
end
